-- ==== Sys2Proof/Word.lean ====
section
/-! DEFINITION. The words of the K410: 16-bit data words, 18-bit word addresses, 32-bit Time Count values
(00_scope.md, "Conventions"). -/

namespace Sys2Proof

/-- A word is 16 bits; the host ports and the memory port carry whole words (00_scope.md, "Words and addresses"). -/
abbrev Word := BitVec 16

/-- Memory addresses are 18-bit word addresses, 00000H to 3FFFFH (00_scope.md, "Words and addresses"). -/
abbrev Addr := BitVec 18

/-- A value of the 32-bit Time Count, one count a microsecond (R87). -/
abbrev Time := BitVec 32

end Sys2Proof
end

