-- ==== Sys2Proof/Syntax.lean ====
section
/-! DEFINITION. The commands of the K410, one constructor for each row of spec/opcode_table.json. -/

namespace Sys2Proof

/-- The two host ports (00_scope.md, "Ports"). -/
inductive Port where
  | a
  | b
  deriving DecidableEq, Repr

/-- The other port: the reader of a region is the port that is not its owner (R2). -/
def Port.other : Port → Port
  | .a => .b
  | .b => .a

/-- The direction of an access (R166). -/
inductive Dir where
  | read
  | write
  deriving DecidableEq, Repr

/-- The commands: the part's steps, each whole and indivisible (95_what_each_step_holds.md). A command that names an
event which is not there to be taken leaves the part as it is (log 1). -/
inductive Instr where
  /-- R166: the strobes of a port come to new levels. `oe`: CE_N and OE_N are both low. `we`: CE_N and WE_N are both low.
  With either the strobes assert an access; with neither they return to inactive (log 10). -/
  | accessArrival (p : Port) (oe we : Bool) (addr : Addr) (value : Word)
  /-- R129: port A writes ALERT MASK. -/
  | alertMaskWrite (value : Word)
  /-- R130: port A writes ALERT PENDING. -/
  | acknowledge (value : Word)
  /-- R131: port A writes ALERT HOLDOFF. -/
  | alertHoldoffWrite (value : Word)
  /-- R125: port A writes FAULT CONSUMER. -/
  | faultConsumerWrite (value : Word)
  /-- R89: a port reads TIME LOW. -/
  | timeLowRead (p : Port)
  /-- R136: a port writes a Status Block word, 0 to 15, that it may not write. -/
  | statusBlockWriteRefused (p : Port) (word : Fin 16) (value : Word)
  /-- R141: a port A write of 0001H to 3F001H completes at the memory port. -/
  | loadCommand
  /-- R141: a port A write of 0002H to 3F001H completes at the memory port. -/
  | unloadCommand
  /-- R180: RESET_N has been low for `periods` consecutive REFCLK periods. -/
  | resetNFalling (periods : Nat)
  /-- R180: a RESET_N low pulse ends before 160 periods. `pfailLow`: PFAIL_N is low at that event. -/
  | shortResetPulseEnd (pfailLow : Bool)
  /-- R140: RESET_N is released. `pfailLow`: PFAIL_N is low at the release (R157). -/
  | resetNRelease (pfailLow : Bool)
  /-- R143: the second start-up read completes, and the values qualify. -/
  | startUpReadsQualify
  /-- R157: PFAIL_N falls. -/
  | pfailNFalling
  /-- R69: the hold timer of a region expires. -/
  | holdTimerExpiry (r : Fin 64)
  /-- R92: the deadline timer of a region expires. -/
  | deadlineExpiry (r : Fin 64)
  /-- R171: the wait-limit timer of a port expires. -/
  | waitLimitExpiry (p : Port)
  /-- R131: the alert holdoff expires. -/
  | holdoffExpiry
  /-- R174: the arbiter grants the memory port. -/
  | arbiterGrant
  /-- R176: the memory cycle in progress completes. -/
  | memoryCycleCompletion
  /-- R74: the Commit Engine starts a commit. -/
  | commitStart
  /-- R83: the CLOSING write of a commit completes. -/
  | commitCompletion
  /-- R109: the Diagnosis Engine starts a scan. -/
  | scanStart
  /-- R112: the condition read that ends a scan completes. -/
  | scanEnd
  /-- R123: the eighth write of a fault record completes. -/
  | faultRecordEnd
  /-- R101: the fourth access of a learned-period write-back completes. -/
  | writeBackEnd
  /-- R145: the 1552nd shadow read completes. -/
  | shadowReadEnd
  /-- R148: the clearing write of a load that passed validation completes. -/
  | loadSuccess
  /-- R149: the clearing write of a load that failed validation completes. -/
  | loadFailure
  /-- R152: the four conditions of the drain's end hold. -/
  | drainEnd
  /-- R153: the clearing write of an unload completes. -/
  | unloadEnd
  /-- R164: the supply fails. -/
  | lossOfSupply
  deriving DecidableEq, Repr

end Sys2Proof
end

