-- ==== Sys2Proof/Decode.lean ====
section
/-! DEFINITION. The commands that a table word spells. -/

namespace Sys2Proof

/-- No row of spec/opcode_table.json gives bits (every row has an empty list of fields): the commands are events, not
encoded words, so no word spells one. -/
def decodeTableWord (_nbits _w : Nat) : Option Instr := none

end Sys2Proof
end

