-- ==== Sys2Proof/Config.lean ====
section
/-! DEFINITION. What the spec leaves free: constants with no body, so that no proof can lean on a value of theirs. -/

namespace Sys2Proof.Config

/-- Two accesses released at one event, one from each port, "are taken in either order" (R154; R173 for the release of
RESET_N): true when port A's is taken first. Applied to `State.freeIndex`. FREE VALUE (log 4). -/
opaque portAFirst : Nat → Bool

/-- Which of several expiries that fall at one Time Count is taken first when no command says so ("either may be
first", R118): a number, taken modulo how many there are. Applied to `State.freeIndex`. FREE VALUE (log 3). -/
opaque expiryFirst : Nat → Nat

/-- Whether the write the memory port carries when the supply fails is made (R164 says that the work stops at that
access). Applied to `State.freeIndex`. FREE VALUE (log 5). -/
opaque cutWriteMade : Nat → Bool

end Sys2Proof.Config
end

