-- ==== Sys2Proof/Machine/State.lean ====
section
/-! DEFINITION. The state of the K410 as the spec gives it, as plain data, and its values at the release of RESET_N. -/

namespace Sys2Proof.Machine

/-! ## Memory -/

/-- Words at addresses, in strictly rising order of address. In a memory no listed word is 0000H, the word an unlisted
address reads as (`Memory.wf` in Machine/Ops.lean; log 6). -/
abbrev Memory := List (Nat × Word)

/-! ## Regions (chapter 1) -/

/-- The header state of a region (R12). -/
inductive HeaderState where
  | clean
  | committing
  | torn
  deriving DecidableEq, Repr

/-- What an enabled region entry declares (Table 1-1). `hold` in 32 µs units, `period` in ms. -/
structure Entry where
  writer : Port
  learn : Bool
  base : Addr
  len : Nat
  hold : Nat
  period : Nat
  condFirst : Nat
  condCount : Nat
  tag : Word
  deriving DecidableEq, Repr

/-- A live region: its entry and its state record (Table 1-2). The slot links, the session link and the diagnosis
status are computed from the block that owns them (log 9). Timers hold their expiry time (R88). -/
structure Region where
  entry : Entry
  gen : BitVec 10
  header : HeaderState
  stale : Bool
  holdTimer : Option Time
  deadline : Option Time
  /-- Time of the last commit completion; absent until the first (R97). -/
  lastCommit : Option Time
  /-- Longest interval in ms (R98). -/
  longest : Nat
  /-- Last proposed period in ms (R99). -/
  proposed : Nat
  deriving DecidableEq, Repr

/-- The sense of a condition (Table 6-1). -/
inductive Sense where
  | equal
  | differ
  deriving DecidableEq, Repr

/-- A condition entry (Table 6-1). -/
structure Condition where
  addr : Addr
  sense : Sense
  mask : Word
  expected : Word
  deriving DecidableEq, Repr

/-- A table in force: the region of each enabled entry, by index, and the 256 conditions of the pool (R1, R104). -/
structure Live where
  regions : Vector (Option Region) 64
  conds : List Condition
  deriving DecidableEq, Repr

/-! ## The write side and the Commit Engine (chapters 2 and 4) -/

inductive SlotState where
  | free
  | filling
  | sealed
  | committing
  deriving DecidableEq, Repr

/-- A slot record (Table 2-1): the written offsets with their values, in rising order of offset. The word count is the
length of `words`. -/
structure Slot where
  state : SlotState
  region : Option (Fin 64)
  words : List (Nat × Word)
  deriving DecidableEq, Repr

/-- A slot in state FREE: no region, no offsets, word count 0 (R17). -/
def Slot.empty : Slot := { state := .free, region := none, words := [] }

/-- What a waiting write asks for (R23). -/
inductive StageAsk where
  | body (off : Nat)
  | seal
  deriving DecidableEq, Repr

/-- An entry of the Stage Pool's list of waiting writes (R23); `order` is the event of the access's arrival (log 17). -/
structure WaitEntry where
  port : Port
  region : Fin 64
  ask : StageAsk
  value : Word
  order : Nat
  deriving DecidableEq, Repr

inductive CommitStep where
  | opening
  | body
  | closing
  deriving DecidableEq, Repr

/-- The commit record (Table 4-1). -/
structure CommitRec where
  slot : Fin 12
  region : Fin 64
  base : Addr
  oldGen : BitVec 10
  step : CommitStep
  next : Option Nat
  deriving DecidableEq, Repr

/-! ## The read side (chapter 3) -/

inductive SessionState where
  | open
  | broken
  deriving DecidableEq, Repr

/-- A session entry (Table 3-1); its open order is its place in the table's list, the oldest first. -/
structure Session where
  region : Fin 64
  state : SessionState
  deriving DecidableEq, Repr

/-! ## Diagnosis (chapter 6) -/

inductive ScanStep where
  | held
  | requested
  deriving DecidableEq, Repr

/-- The scan record (Table 6-2). -/
structure Scan where
  region : Fin 64
  tag : Word
  position : Nat
  step : ScanStep
  recovered : Bool
  deriving DecidableEq, Repr

inductive DiagStatus where
  | idle
  | queued
  | scanning
  deriving DecidableEq, Repr

/-! ## Faults, the Record Writer and the alert (chapter 7) -/

/-- The causes of a wait (Table 10-3). -/
inductive WaitCause where
  | slot
  | commit
  | load
  | arbiter
  deriving DecidableEq, Repr

/-- The kind and detail of a fault (Table 7-1). -/
inductive FaultDetail where
  | stale (region : Fin 64) (tag : Word) (period : Nat)
  | diag (region : Fin 64) (tag : Word) (unmet : Bool) (cond : Nat) (addr : Addr) (observed : Word) (recovered : Bool)
  | protect (port : Port) (addr : Addr) (value : Word)
  | wait (port : Port) (addr : Addr) (dir : Dir) (cause : WaitCause)
  | stage (region : Fin 64) (tag : Word) (words : Nat)
  | torn (region : Fin 64) (tag : Word) (gen : BitVec 10)
  | load (code index : Nat)
  deriving DecidableEq, Repr

/-- A fault with its sequence number and the Time Count at its detection (R118). -/
structure FaultRecord where
  seq : Word
  time : Time
  detail : FaultDetail
  deriving DecidableEq, Repr

/-- The items of the Record Writer's queue (R120). -/
inductive Item where
  | record (f : FaultRecord)
  | writeBack (region : Fin 64) (period : Word)
  | torn (base : Addr) (gen : BitVec 10)
  deriving DecidableEq, Repr

/-- The item the Record Writer holds in hand, with the accesses already completed: `done` words of a record at ring index
`index` (R123); of a write-back the period `p` and check `k` read so far (R101). -/
inductive InHand where
  | record (f : FaultRecord) (index : Nat) (done : Nat)
  | writeBack (region : Fin 64) (period : Word) (done : Nat) (p k : Word)
  | torn (base : Addr) (gen : BitVec 10)
  deriving DecidableEq, Repr

/-- The Fault Log and the Record Writer (R119, R120, R122). -/
structure FaultLog where
  nextSeq : Word
  producer : BitVec 6
  consumer : BitVec 6
  queue : List Item
  inHand : Option InHand
  deriving DecidableEq, Repr

/-- The alert causes' sets, the holdoff and the ALERT_N line (R127 to R131). Bit positions by Table 8-11. -/
structure AlertUnit where
  pending : BitVec 8
  mask : BitVec 8
  /-- The ALERT HOLDOFF word. -/
  n : BitVec 8
  holdoff : Option Time
  /-- True when the part drives ALERT_N low. -/
  asserted : Bool
  deriving DecidableEq, Repr

/-! ## The Table Loader (chapter 8) -/

inductive PartState where
  | bypass
  | loading
  | active
  | draining
  | pfail
  deriving DecidableEq, Repr

inductive Command where
  | load
  | unload
  deriving DecidableEq, Repr

inductive Origin where
  | bypass
  | active
  deriving DecidableEq, Repr

/-- What the torn scan took for an entry (R147). -/
structure Found where
  region : Fin 64
  gen : BitVec 10
  torn : Bool
  deriving DecidableEq, Repr

/-- A reason code and an entry index (Table 8-5). -/
structure LoadResult where
  code : Nat
  index : Nat
  deriving DecidableEq, Repr

/-- The Loader's work: while it is not idle the Loader has a request waiting at the arbiter or carried at the memory port
(R143, R144, R147, R148, R149, R153). -/
inductive LoaderWork where
  | idle
  /-- The start-up read of 3F000H. -/
  | startUpFormat
  /-- The start-up read of 3F002H, after the format word read. -/
  | startUpAutoload (format : Word)
  /-- The shadow read of the next word. -/
  | shadowRead
  /-- The torn-scan read of entry `now`, with the entries still to read and what was taken. -/
  | tornScan (now : Fin 64) (rest : List (Fin 64)) (found : List Found)
  /-- The clearing write of a load that passed validation. -/
  | clearSuccess (found : List Found)
  /-- The clearing write of a load that failed validation. -/
  | clearFailure (reason : LoadResult)
  /-- The clearing write of an unload. -/
  | clearUnload
  deriving DecidableEq, Repr

/-- The Table Loader's state but for the part state and the tables (Table 8-3). -/
structure Loader where
  work : LoaderWork
  command : Option Command
  /-- The words read so far, from 3F000H up. -/
  shadow : Option (List Word)
  origin : Option Origin
  waitLimit : Nat
  margin : Option Nat
  liveCheck : Word
  result : LoadResult
  deriving DecidableEq, Repr

/-! ## Ports and the Memory Arbiter (chapter 10) -/

/-- HELD with the cause of the wait, or GRANTED (Table 10-1). A port with no access is IDLE. -/
inductive Phase where
  | held (cause : WaitCause)
  | granted
  deriving DecidableEq, Repr

/-- The class an access that waits was taken under (R7, R168). -/
inductive AccessClass where
  /-- Not classed: it waits with cause LOAD. -/
  | unclassed
  /-- Passed to the arbiter as a memory access (R169, R27). -/
  | memory
  /-- An owner's body write or seal in the list of waiting writes (R23). -/
  | ownerWrite
  /-- A reader's header read of a region (R49). -/
  | readerHeader (r : Fin 64)
  /-- A reader's body read of a region (R55). -/
  | readerBody (r : Fin 64)
  deriving DecidableEq, Repr

/-- The access in flight at a port (Table 10-1). -/
structure Access where
  dir : Dir
  addr : Addr
  value : Word
  arrival : Time
  /-- The arrival's place among all arrivals (log 17). -/
  order : Nat
  limit : Nat
  timer : Option Time
  phase : Phase
  cls : AccessClass
  /-- It has waited with cause LOAD (R142). -/
  waitedLoad : Bool
  deriving DecidableEq, Repr

/-- The access a port records while RESET_N is low (R173). -/
structure Recorded where
  dir : Dir
  addr : Addr
  value : Word
  deriving DecidableEq, Repr

/-- A host port's record (Table 10-1), the level of its strobes (R166), the value it drives on its DQ lines (R167) and the
access it records while RESET_N is low (R173). -/
structure PortRec where
  access : Option Access
  latch : Word
  /-- The strobes assert an access: CE_N is low together with OE_N or WE_N (R166). -/
  strobes : Bool
  driven : Option Word
  recorded : Option Recorded
  deriving DecidableEq, Repr

inductive Claimant where
  | a
  | b
  | internal
  deriving DecidableEq, Repr

/-- Whose access the memory port carries (R174, R175). -/
inductive Requester where
  | port (p : Port)
  | commit
  | loader
  | writer
  | diag
  deriving DecidableEq, Repr

/-- The access carried at the memory port: for a read `data` is the word taken at the grant, for a write the value it
stores by its completion (R176). -/
structure Cycle where
  req : Requester
  dir : Dir
  addr : Addr
  data : Word
  deriving DecidableEq, Repr

/-- The lines of the part: a level is true when the line is high (Table 12-1, R180, R157). -/
structure Pins where
  powered : Bool
  refclk : Bool
  resetN : Bool
  /-- How many REFCLK periods RESET_N has been low while no reset is in effect (R180). -/
  resetLowPeriods : Nat
  /-- The reset has taken effect and RESET_N is not yet released (R180). -/
  resetTaken : Bool
  pfailN : Bool
  /-- PFAIL_N was low at the release and is still to be taken as a fall (R157). -/
  pfailDue : Bool
  deriving DecidableEq, Repr

/-! ## The machine -/

/-- The K410: the queue of commands that wait and every piece of state the spec gives the part. -/
structure State where
  /-- The commands that wait, first in first out (the model's own, log 22). -/
  pending : List Instr
  pins : Pins
  part : PartState
  /-- The Time Count (R87). -/
  time : Time
  portA : PortRec
  portB : PortRec
  mem : Memory
  /-- The access carried at the memory port (R176). -/
  cycle : Option Cycle
  /-- The arbiter's rotation pointer (R174). -/
  pointer : Claimant
  ldr : Loader
  live : Option Live
  retained : Option Live
  slots : Vector Slot 12
  /-- The Stage Pool's list of waiting writes, in order of arrival (R23). -/
  waiting : List WaitEntry
  /-- The Commit Queue, oldest first (R62). -/
  commitQueue : List (Fin 12)
  /-- The commit in progress; the Commit Engine is IDLE when there is none (R64). -/
  commit : Option CommitRec
  sessionsA : List Session
  sessionsB : List Session
  /-- The Diagnosis Queue, oldest first (R107). -/
  diagQueue : List (Fin 64)
  /-- The scan in progress; the Diagnosis Engine is IDLE when there is none (R109). -/
  scan : Option Scan
  log : FaultLog
  alert : AlertUnit
  /-- How many arrivals there were (the model's own, log 17). -/
  arrivals : Nat
  /-- The index of the next free value (the model's own, logs 3, 4, 5). -/
  freeIndex : Nat
  deriving DecidableEq, Repr

/-- The reasons a step could stop the machine. None: the spec names no stop of the part (log 23). Its own faults are
entries of the Fault Log (R118). -/
inductive Fault where
  deriving DecidableEq, Repr

/-- No meaning. -/
inductive Refusal where
  /-- Raised by `exec` for a command with no meaning yet; no arm raises it. Safe. -/
  | notModelled (mnemonic : String)
  deriving DecidableEq, Repr

/-- A port with no access in flight (Table 10-4), its strobes inactive (log 7). -/
def PortRec.idle : PortRec := { access := none, latch := 0#16, strobes := false, driven := none, recorded := none }

/-- The part right after the release of RESET_N with no recorded access: BYPASS, every block at its reset value, the first
start-up read requested (R140, R143, R165; Tables 7-2, 8-3, 10-4). -/
def State.reset : State :=
  { pending := []
    pins :=
      { powered := true, refclk := true, resetN := true, resetLowPeriods := 0, resetTaken := false
        pfailN := true, pfailDue := false }
    part := .bypass
    time := 0#32
    portA := PortRec.idle
    portB := PortRec.idle
    mem := []
    cycle := none
    pointer := .a
    ldr :=
      { work := .startUpFormat, command := none, shadow := none, origin := none, waitLimit := 1000, margin := none
        liveCheck := 0#16, result := { code := 0, index := 0 } }
    live := none
    retained := none
    slots := Vector.replicate 12 Slot.empty
    waiting := []
    commitQueue := []
    commit := none
    sessionsA := []
    sessionsB := []
    diagQueue := []
    scan := none
    log := { nextSeq := 0#16, producer := 0#6, consumer := 0#6, queue := [], inHand := none }
    alert := { pending := 0#8, mask := 0xFF#8, n := 0#8, holdoff := none, asserted := false }
    arrivals := 0
    freeIndex := 0 }

end Sys2Proof.Machine
end

