-- ==== Sys2Proof/Machine/Formats.lean ====
section
/-! DEFINITION. The Control Area map and every layout that a host or the memory port sees (chapter 8, Table 8-1 and
section 8.8). -/

namespace Sys2Proof.Machine

/-! ## The Control Area map (Table 8-1) -/

/-- The first word of the Control Area, 3F000H. -/
def controlBase : Nat := 0x3F000

/-- The Table Header's format word, 3F000H (Table 8-6). -/
def formatAddr : Addr := 0x3F000#18

/-- The command word, 3F001H (Table 8-6). -/
def commandAddr : Addr := 0x3F001#18

/-- The autoload word, 3F002H (Table 8-6). -/
def autoloadAddr : Addr := 0x3F002#18

/-- The check word, 3F005H (Table 8-6). -/
def checkAddr : Addr := 0x3F005#18

/-- The words of a load's shadow read, 3F000H to 3F60FH (R144). -/
def shadowSize : Nat := 1552

/-- The Control Area, 3F000H to 3FFFFH (R137). -/
def inControlArea (a : Addr) : Bool := decide (0x3F000 ≤ a.toNat)

/-- Table Header, Region Table and Condition Pool, 3F000H to 3F60FH (Table 8-1). -/
def inTableWords (a : Addr) : Bool := decide (0x3F000 ≤ a.toNat) && decide (a.toNat < 0x3F610)

/-- The Fault Log ring, 3F610H to 3F70FH (Table 8-1, R122). -/
def inFaultLog (a : Addr) : Bool := decide (0x3F610 ≤ a.toNat) && decide (a.toNat < 0x3F710)

/-- The Status Block, 3F710H to 3F71FH (Table 8-1). -/
def inStatusBlock (a : Addr) : Bool := decide (0x3F710 ≤ a.toNat) && decide (a.toNat < 0x3F720)

/-- The address of a Status Block word (Table 7-3). -/
def statusAddr (word : Fin 16) : Addr := BitVec.ofNat 18 (0x3F710 + word.val)

/-- The Status Block word an address in the Status Block names (Table 7-3). -/
def statusWord (a : Addr) : Fin 16 := Fin.ofNat 16 (a.toNat - 0x3F710)

/-- Port A may write ALERT MASK, ALERT PENDING, ALERT HOLDOFF and FAULT CONSUMER, words 2, 3, 4 and 6; port B none
(R136). -/
def statusWritable (p : Port) (word : Fin 16) : Bool :=
  match p with
  | .a => word == 2 || word == 3 || word == 4 || word == 6
  | .b => false

/-- The period word of Region Table entry `r`, 3F015H + 8 × r (R101). -/
def periodAddr (r : Fin 64) : Addr := BitVec.ofNat 18 (0x3F015 + 8 * r.val)

/-- Word `k` of ring index `index`, 3F610H + 8 × index + k (R122). -/
def ringAddr (index k : Nat) : Addr := BitVec.ofNat 18 (0x3F610 + 8 * index + k)

/-! ## The region header word (Table 8-9) -/

/-- The state codes of the header word. -/
def HeaderState.code : HeaderState → BitVec 2
  | .clean => 0b00#2
  | .committing => 0b01#2
  | .torn => 0b10#2

/-- The stored header word: generation, state, and 0 in the other bits (R11). -/
def storedHeader (gen : BitVec 10) (h : HeaderState) : Word := gen ++ h.code ++ 0#4

/-- The generation field of a stored header word. -/
def storedGen (w : Word) : BitVec 10 := w.extractLsb' 6 10

/-- The state field of a stored header word. -/
def storedState (w : Word) : BitVec 2 := w.extractLsb' 4 2

/-- The result field of a header read value (Table 1-5). -/
inductive HeaderResult where
  | owner
  | open
  | intact
  | broken
  deriving DecidableEq, Repr

def HeaderResult.code : HeaderResult → BitVec 2
  | .owner => 0b00#2
  | .open => 0b01#2
  | .intact => 0b10#2
  | .broken => 0b11#2

/-- The header read value (Tables 1-5 and 8-9). -/
def readHeader (gen : BitVec 10) (h : HeaderState) (stale : Bool) (result : HeaderResult) (staged : Bool) : Word :=
  gen ++ h.code ++ BitVec.ofBool stale ++ result.code ++ BitVec.ofBool staged

/-! ## The table (Tables 8-6, 8-7, 8-8), read from the shadow -/

/-- Table Header word `n`. -/
def headerWord (ws : List Word) (n : Nat) : Word := ws.getD n 0#16

/-- Word `k` of Region Table entry `i`. -/
def entryWord (ws : List Word) (i : Fin 64) (k : Nat) : Word := ws.getD (16 + 8 * i.val + k) 0#16

/-- Word `k` of Condition Pool entry `c`. -/
def condWord (ws : List Word) (c k : Nat) : Word := ws.getD (528 + 4 * c + k) 0#16

/-- Bit 0 of word 0: enabled. -/
def entryEnabled (ws : List Word) (i : Fin 64) : Bool := (entryWord ws i 0).getLsbD 0

/-- Bits 2-1 of word 0: 01 port A, 10 port B, the others invalid. -/
def entryWriter (ws : List Word) (i : Fin 64) : Option Port :=
  let code := (entryWord ws i 0).extractLsb' 1 2
  if code = 0b01#2 then some .a else if code = 0b10#2 then some .b else none

/-- The base address: word 1 below bits 1-0 of word 2. -/
def entryBase (ws : List Word) (i : Fin 64) : Addr := (entryWord ws i 2).extractLsb' 0 2 ++ entryWord ws i 1

/-- Word 3: the length L. -/
def entryLen (ws : List Word) (i : Fin 64) : Nat := (entryWord ws i 3).toNat

/-- The entry the words declare; an invalid writer code, which validation refuses (R145), is read as port A. -/
def parseEntry (ws : List Word) (i : Fin 64) : Entry :=
  { writer := (entryWriter ws i).getD .a
    learn := (entryWord ws i 0).getLsbD 3
    base := entryBase ws i
    len := entryLen ws i
    hold := ((entryWord ws i 4).extractLsb' 0 8).toNat
    period := (entryWord ws i 5).toNat
    condFirst := ((entryWord ws i 6).extractLsb' 8 8).toNat
    condCount := ((entryWord ws i 6).extractLsb' 0 8).toNat
    tag := entryWord ws i 7 }

/-- The condition the words declare (Table 8-8). -/
def parseCondition (ws : List Word) (c : Nat) : Condition :=
  { addr := (condWord ws c 1).extractLsb' 0 2 ++ condWord ws c 0
    sense := if (condWord ws c 1).getLsbD 15 then .differ else .equal
    mask := condWord ws c 2
    expected := condWord ws c 3 }

/-- The 256 conditions of the pool. -/
def parseConditions (ws : List Word) : List Condition := (List.range 256).map (parseCondition ws)

/-- The check: the XOR of header words 0, 2, 3, 4 and 6 to 15, the Region Table and the Condition Pool (R146). -/
def formCheck (ws : List Word) : Word :=
  (headerWord ws 0 ^^^ headerWord ws 2 ^^^ headerWord ws 3 ^^^ headerWord ws 4) ^^^
    ((ws.take shadowSize).drop 6).foldl (· ^^^ ·) 0#16

/-! ## The fault record (Table 8-10) -/

/-- The alert cause a fault's kind names: its bit in ALERT MASK and ALERT PENDING (Table 8-11). -/
def FaultDetail.cause : FaultDetail → BitVec 8
  | .stale .. => 0x01#8
  | .diag .. => 0x02#8
  | .protect .. => 0x04#8
  | .wait .. => 0x08#8
  | .stage .. => 0x10#8
  | .torn .. => 0x20#8
  | .load .. => 0x40#8

/-- The OVERFLOW cause (Table 8-11). -/
def overflowCause : BitVec 8 := 0x80#8

/-- The kind code, bits 15-12 of word 1. -/
def FaultDetail.kind : FaultDetail → Nat
  | .stale .. => 1
  | .diag .. => 2
  | .protect .. => 3
  | .wait .. => 4
  | .stage .. => 5
  | .torn .. => 6
  | .load .. => 7

/-- The region index, bits 11-6 of word 1; 0 for the kinds that carry none. -/
def FaultDetail.regionField : FaultDetail → Nat
  | .stale r .. | .diag r .. | .stage r .. | .torn r .. => r.val
  | .protect .. | .wait .. | .load .. => 0

/-- The port, bit 5 of word 1: 0 port A, 1 port B. -/
def portBit : Port → Nat
  | .a => 0
  | .b => 1

def FaultDetail.portField : FaultDetail → Nat
  | .protect p .. | .wait p .. => portBit p
  | .stale .. | .diag .. | .stage .. | .torn .. | .load .. => 0

/-- The direction, bit 4 of word 1: 0 read, 1 write. -/
def dirBit : Dir → Nat
  | .read => 0
  | .write => 1

def FaultDetail.dirField : FaultDetail → Nat
  | .wait _ _ d _ => dirBit d
  | .protect .. => 1
  | .stale .. | .diag .. | .stage .. | .torn .. | .load .. => 0

/-- The address a fault carries; 0 for the kinds that carry none. -/
def FaultDetail.addrField : FaultDetail → Addr
  | .diag _ _ _ _ a _ _ => a
  | .protect _ a _ | .wait _ a _ _ => a
  | .stale .. | .stage .. | .torn .. | .load .. => 0#18

def FaultDetail.outcomeField : FaultDetail → Nat
  | .diag _ _ unmet _ _ _ _ => unmet.toNat
  | .stale .. | .protect .. | .wait .. | .stage .. | .torn .. | .load .. => 0

def FaultDetail.recoveredField : FaultDetail → Nat
  | .diag _ _ _ _ _ _ recovered => recovered.toNat
  | .stale .. | .protect .. | .wait .. | .stage .. | .torn .. | .load .. => 0

/-- Word 4: the region tag. -/
def FaultDetail.tagField : FaultDetail → Word
  | .stale _ t _ | .diag _ t _ _ _ _ _ | .stage _ t _ | .torn _ t _ => t
  | .protect .. | .wait .. | .load .. => 0#16

/-- The wait causes' codes in word 5. -/
def WaitCause.code : WaitCause → Nat
  | .slot => 0
  | .commit => 1
  | .load => 2
  | .arbiter => 3

/-- Word 5. -/
def FaultDetail.word5 : FaultDetail → Word
  | .stale _ _ period => BitVec.ofNat 16 period
  | .diag _ _ _ cond _ _ _ => BitVec.ofNat 16 cond
  | .stage _ _ words => BitVec.ofNat 16 words
  | .torn _ _ gen => gen.setWidth 16
  | .wait _ _ _ cause => BitVec.ofNat 16 cause.code
  | .load code index => BitVec.ofNat 16 (code * 256 + index)
  | .protect .. => 0#16

/-- Word 7. -/
def FaultDetail.word7 : FaultDetail → Word
  | .diag _ _ _ _ _ observed _ => observed
  | .protect _ _ value => value
  | .stale .. | .wait .. | .stage .. | .torn .. | .load .. => 0#16

/-- Word 1: kind, region index, port, direction, address bits 17-16, outcome, recovered. -/
def FaultDetail.word1 (d : FaultDetail) : Word :=
  BitVec.ofNat 16
    (d.kind * 4096 + d.regionField * 64 + d.portField * 32 + d.dirField * 16 + d.addrField.toNat / 65536 * 4
      + d.outcomeField * 2 + d.recoveredField)

/-- Word `k`, 0 to 7, of a fault record (Table 8-10). -/
def FaultRecord.word (f : FaultRecord) (k : Nat) : Word :=
  match k with
  | 0 => f.seq
  | 1 => f.detail.word1
  | 2 => f.time.extractLsb' 0 16
  | 3 => f.time.extractLsb' 16 16
  | 4 => f.detail.tagField
  | 5 => f.detail.word5
  | 6 => f.detail.addrField.extractLsb' 0 16
  | _ => f.detail.word7

/-! ## Status Block words (Table 8-11) -/

/-- PART STATE codes; PFAIL has none, since every read in PFAIL is answered FFFFH (R139). -/
def PartState.code : PartState → Word
  | .bypass => 0#16
  | .loading => 1#16
  | .active => 2#16
  | .draining => 3#16
  | .pfail => 0xFFFF#16

/-- LOAD RESULT: reason code in bits 15-8, entry index in bits 7-0 (R150). -/
def LoadResult.word (r : LoadResult) : Word := BitVec.ofNat 16 (r.code * 256 + r.index)

/-- The BUSY reason of a refused command (R141). -/
def busyCode : Nat := 11

end Sys2Proof.Machine
end

