-- ==== Sys2Proof/Machine/Ops.lean ====
section
/-! DEFINITION. The named operations over memory, ports, regions, slots and sessions that every block of the part uses. -/

namespace Sys2Proof.Machine

/-! ## Words in rising order of key: memory, and the words of a slot -/

/-- The word at a key. -/
def cellsGet : List (Nat × Word) → Nat → Option Word
  | [], _ => none
  | (k, w) :: rest, a => if k = a then some w else cellsGet rest a

/-- The list with the word `w` at key `a`, keeping the keys in rising order. -/
def cellsPut : List (Nat × Word) → Nat → Word → List (Nat × Word)
  | [], a, w => [(a, w)]
  | (k, v) :: rest, a, w =>
    if a < k then (a, w) :: (k, v) :: rest
    else if a = k then (a, w) :: rest
    else (k, v) :: cellsPut rest a w

/-- The list without key `a`. -/
def cellsErase : List (Nat × Word) → Nat → List (Nat × Word)
  | [], _ => []
  | (k, v) :: rest, a => if k = a then cellsErase rest a else (k, v) :: cellsErase rest a

/-- What a word of memory that nothing has written reads as: the spec gives the static RAM no contents. DESIGN CHOICE,
unsafe (log 6). -/
def blankWord : Word := 0#16

/-- The word memory holds at an address (R176). -/
def memRead (m : Memory) (a : Addr) : Word := (cellsGet m a.toNat).getD blankWord

/-- Memory with a word stored at an address (R176); a blank word is not listed. -/
def memWrite (m : Memory) (a : Addr) (w : Word) : Memory :=
  if w = blankWord then cellsErase m a.toNat else cellsPut m a.toNat w

/-- Keys in strictly rising order. -/
def cellsRising : List (Nat × Word) → Bool
  | [] => true
  | [_] => true
  | (k, _) :: (k', v') :: rest => decide (k < k') && cellsRising ((k', v') :: rest)

/-- The canonical form of memory: strictly rising 18-bit addresses and no blank word listed (log 6). -/
def Memory.wf (m : Memory) : Bool :=
  cellsRising m && m.all fun cell => decide (cell.1 < 2 ^ 18) && decide (cell.2 ≠ blankWord)

/-! ## Ports -/

/-- The record of a host port. -/
def State.port (s : State) : Port → PortRec
  | .a => s.portA
  | .b => s.portB

def State.setPort (s : State) (p : Port) (r : PortRec) : State :=
  match p with
  | .a => { s with portA := r }
  | .b => { s with portB := r }

/-- WAIT_N is asserted while an access is in flight and while RESET_N is low (R166, R173). -/
def State.waitAsserted (s : State) (p : Port) : Bool := s.pins.resetTaken || (s.port p).access.isSome

/-- The access in flight at `p` changed by `f`. -/
def State.updAccess (s : State) (p : Port) (f : Access → Access) : State :=
  s.setPort p { s.port p with access := (s.port p).access.map f }

/-- What a port drives at a completion: a read's value while its strobes assert at that event, else nothing (R167). That the level
at the completion alone decides, so that strobes that lifted in flight and asserted again are driven the value, is the model's:
the spec is silent on them. DESIGN CHOICE, unsafe (log 10). -/
def PortRec.drives (r : PortRec) (value : Option Word) : Option Word := if r.strobes then value else none

/-- The access at `p` completes: WAIT_N is released, the timer stops, the port is IDLE; a read's value is driven on DQ while
the strobes are held (R167). -/
def State.endAccess (s : State) (p : Port) (value : Option Word) : State :=
  s.setPort p { s.port p with access := none, driven := (s.port p).drives value }

/-- The strobes of `p` assert (R166). -/
def State.strobe (s : State) (p : Port) : State := s.setPort p { s.port p with strobes := true }

/-- The strobes of `p` return to inactive: the port drives its DQ lines no longer; an access in flight runs on (R166, R167). -/
def State.liftStrobes (s : State) (p : Port) : State := s.setPort p { s.port p with strobes := false, driven := none }

/-- The access at `p` is HELD with a cause, as an access of a class (R170). -/
def State.hold (s : State) (p : Port) (cause : WaitCause) (cls : AccessClass) : State :=
  s.updAccess p fun a =>
    { a with phase := .held cause, cls := cls, waitedLoad := a.waitedLoad || cause == .load }

/-- The cause an access waits with; none when it is GRANTED (Table 10-1). -/
def Access.cause? (a : Access) : Option WaitCause :=
  match a.phase with
  | .held c => some c
  | .granted => none

/-- What a port drives for an access that is ended: FFFFH for a read, nothing for a write (R167). -/
def endedValue (d : Dir) : Option Word :=
  match d with
  | .read => some 0xFFFF#16
  | .write => none

/-! ## Regions -/

/-- The state record of a region, when it has one. -/
def State.region? (s : State) (r : Fin 64) : Option Region :=
  match s.live with
  | some l => l.regions[r]
  | none => none

/-- The record of region `r` changed by `f`; nothing changes when there is none. -/
def State.updRegion (s : State) (r : Fin 64) (f : Region → Region) : State :=
  match s.live with
  | some l => { s with live := some { l with regions := l.regions.set r (l.regions[r].map f) } }
  | none => s

/-- Every region record of a table changed by `f`. -/
def Live.mapRegions (l : Live) (f : Region → Region) : Live :=
  { l with regions := Vector.ofFn fun r : Fin 64 => l.regions[r].map f }

/-- Every region record of the live table changed by `f`. -/
def State.mapRegions (s : State) (f : Region → Region) : State :=
  { s with live := s.live.map fun l => l.mapRegions f }

/-- The words b to b + L − 1 of a region (R3). -/
def Entry.covers (e : Entry) (a : Addr) : Bool :=
  decide (e.base.toNat ≤ a.toNat) && decide (a.toNat < e.base.toNat + e.len)

/-- The offset of an access: its address minus b (R3). -/
def Entry.offset (e : Entry) (a : Addr) : Nat := a.toNat - e.base.toNat

/-- The address of an offset of a region. -/
def offsetAddr (base : Addr) (off : Nat) : Addr := base + BitVec.ofNat 18 off

/-- Region `r` covers the address. -/
def State.regionCovers (s : State) (r : Fin 64) (a : Addr) : Bool :=
  match s.region? r with
  | some x => x.entry.covers a
  | none => false

/-- The region whose words hold an address; validation lets at most one (R3). -/
def State.regionAt (s : State) (a : Addr) : Option (Fin 64) :=
  (List.finRange 64).find? fun r => s.regionCovers r a

/-- A region is live in ACTIVE and DRAINING (R1). -/
def PartState.regionsLive : PartState → Bool
  | .active | .draining => true
  | .bypass | .loading | .pfail => false

/-! ## Slots (chapter 2) -/

def State.setSlot (s : State) (k : Fin 12) (x : Slot) : State := { s with slots := s.slots.set k x }

/-- The slot of region `r` in a state: the region's FILLING, SEALED or COMMITTING link (R20, log 9). -/
def State.slotIn (s : State) (st : SlotState) (r : Fin 64) : Option (Fin 12) :=
  (List.finRange 12).find? fun k => s.slots[k].state == st && s.slots[k].region == some r

def State.fillingLink (s : State) (r : Fin 64) : Option (Fin 12) := s.slotIn .filling r
def State.sealedLink (s : State) (r : Fin 64) : Option (Fin 12) := s.slotIn .sealed r
def State.committingLink (s : State) (r : Fin 64) : Option (Fin 12) := s.slotIn .committing r

/-- The lowest-numbered FREE slot (R18). -/
def State.freeSlot (s : State) : Option (Fin 12) :=
  (List.finRange 12).find? fun k => s.slots[k].state == .free

/-- FREE SLOTS (R18). -/
def State.freeSlots (s : State) : Nat := (List.finRange 12).countP fun k => s.slots[k].state == .free

/-! ## Session Tables (chapter 3) -/

/-- The Session Table of a port, the oldest entry first (R39). -/
def State.sessions (s : State) : Port → List Session
  | .a => s.sessionsA
  | .b => s.sessionsB

def State.setSessions (s : State) (p : Port) (t : List Session) : State :=
  match p with
  | .a => { s with sessionsA := t }
  | .b => { s with sessionsB := t }

/-- The entry of a table for a region. -/
def sessionIn (t : List Session) (r : Fin 64) : Option Session := t.find? fun e => e.region == r

/-- The session link of region `r`: the entry of its reader's table (R40, log 9). -/
def State.sessionLink (s : State) (r : Fin 64) : Option Session :=
  match s.region? r with
  | some x => sessionIn (s.sessions x.entry.writer.other) r
  | none => none

/-- The table with the entry of region `r` marked BROKEN (R51). -/
def breakIn (t : List Session) (r : Fin 64) : List Session :=
  t.map fun e => if e.region = r then { e with state := .broken } else e

/-- The table with every entry marked BROKEN (R59). -/
def breakAll (t : List Session) : List Session := t.map fun e => { e with state := .broken }

/-- The region's session entry, if it has one, marked BROKEN (R51). -/
def State.breakSession (s : State) (r : Fin 64) : State :=
  match s.region? r with
  | some x =>
    let p := x.entry.writer.other
    s.setSessions p (breakIn (s.sessions p) r)
  | none => s

/-! ## Diagnosis status (chapter 6) -/

/-- QUEUED: the index is in the Diagnosis Queue; SCANNING: the engine scans the region; else IDLE (R107, log 9). -/
def State.diagStatus (s : State) (r : Fin 64) : DiagStatus :=
  if s.diagQueue.contains r then .queued
  else if s.scan.any fun c => c.region == r then .scanning
  else .idle

/-! ## Timers (R88) -/

/-- The expiry time of a timer of length `d` µs started now. -/
def State.after (s : State) (d : Nat) : Time := s.time + BitVec.ofNat 32 d

/-- A timer expires at the event the Time Count reaches its expiry time (R88, log 16); with REFCLK stopped none does (R180). -/
def State.due (s : State) (t : Option Time) : Bool := s.pins.refclk && t == some s.time

/-! ## Lines -/

/-- The part takes events: it is powered and no reset is in effect (R173, R178, R180). -/
def State.running (s : State) : Bool := s.pins.powered && !s.pins.resetTaken

/-- ALERT_N evaluated again: asserted exactly when the part is not in PFAIL, no holdoff is running and some unmasked cause
is pending (R127). -/
def State.evalAlert (s : State) : State :=
  { s with
    alert :=
      { s.alert with
        asserted := decide (s.part ≠ .pfail) && s.alert.holdoff.isNone
          && decide (s.alert.pending &&& ~~~s.alert.mask ≠ 0#8) } }

end Sys2Proof.Machine
end

