-- ==== Sys2Proof/Machine/FaultLog.lean ====
section
/-! DEFINITION. The Fault Log & Alert block (chapter 7): faults, their numbers and records, the Record Writer and its queue,
the alert line. -/

namespace Sys2Proof.Machine

/-! ## The queue of the Record Writer (R120) -/

/-- A fault record counts in the record queue length; a write-back and a TORN rewrite do not (R120). -/
def Item.isRecord : Item → Bool
  | .record _ => true
  | .writeBack .. | .torn .. => false

def InHand.isRecord : InHand → Bool
  | .record .. => true
  | .writeBack .. | .torn .. => false

/-- The record queue length q: the fault records in the queue and the one in hand (R120). -/
def FaultLog.recordCount (l : FaultLog) : Nat :=
  l.queue.countP Item.isRecord + (if l.inHand.any InHand.isRecord then 1 else 0)

/-- The occupancy (P − C) modulo 64 (R122). -/
def FaultLog.occupancy (l : FaultLog) : Nat := (l.producer - l.consumer).toNat

/-- An item as the Record Writer begins it; a record goes to ring index P modulo 32 (R123). -/
def Item.begin (i : Item) (producer : BitVec 6) : InHand :=
  match i with
  | .record f => .record f (producer.toNat % 32) 0
  | .writeBack r n => .writeBack r n 0 0#16 0#16
  | .torn base gen => .torn base gen

/-- The idle Record Writer takes the head item of its queue in hand (R123); in PFAIL it takes none (R133). -/
def State.takeItem (s : State) : State :=
  match s.part, s.log.inHand, s.log.queue with
  | .pfail, _, _ => s
  | _, some _, _ => s
  | _, none, [] => s
  | _, none, i :: rest => { s with log := { s.log with queue := rest, inHand := some (i.begin s.log.producer) } }

/-- An item joins the tail of the queue (R120). -/
def State.enqueue (s : State) (i : Item) : State :=
  { s with log := { s.log with queue := s.log.queue ++ [i] } }.takeItem

/-! ## Fault detection (R118, R119, R121, R128) -/

/-- Whether a fault detected now is logged: room in the ring and in the record queue (R121), and not in PFAIL (R133). -/
def State.logs (s : State) : Bool :=
  decide (s.part ≠ .pfail) && decide (s.log.occupancy + s.log.recordCount < 32) && decide (s.log.recordCount < 8)

/-- Causes become pending and ALERT_N is evaluated again (R127, R128). -/
def State.setPending (s : State) (causes : BitVec 8) : State :=
  { s with alert := { s.alert with pending := s.alert.pending ||| causes } }.evalAlert

/-- A fault is detected: it takes a sequence number (R119), is logged or lost (R121), and its cause, with OVERFLOW for a
lost fault, becomes pending (R128). -/
def State.raise (s : State) (d : FaultDetail) : State :=
  let numbered : State := { s with log := { s.log with nextSeq := s.log.nextSeq + 1 } }
  if s.logs then
    (numbered.enqueue (.record { seq := s.log.nextSeq, time := s.time, detail := d })).setPending d.cause
  else numbered.setPending (d.cause ||| overflowCause)

/-! ## The accesses of the item in hand (R101, R123, R147) -/

/-- The next memory access of the item in hand: direction, address, value. -/
def InHand.access : InHand → Dir × Addr × Word
  | .record f index done => (.write, ringAddr index done, f.word done)
  | .writeBack r n done p k =>
    match done with
    | 0 => (.read, periodAddr r, 0#16)
    | 1 => (.read, checkAddr, 0#16)
    | 2 => (.write, periodAddr r, n)
    | _ => (.write, checkAddr, k ^^^ p ^^^ n)
  | .torn base gen => (.write, base, storedHeader gen .torn)

/-- The item ends; the Record Writer takes its next one (R123). -/
def State.endItem (s : State) : State := { s with log := { s.log with inHand := none } }.takeItem

/-- The access carried for the item in hand completes, with the word read: the item advances, or ends at its last access.
At the end of a record P advances (R123). -/
def State.writerAdvance (s : State) (data : Word) : State :=
  match s.log.inHand with
  | some (.record f index done) =>
    if done + 1 < 8 then { s with log := { s.log with inHand := some (.record f index (done + 1)) } }
    else { s with log := { s.log with producer := s.log.producer + 1 } }.endItem
  | some (.writeBack r n done p k) =>
    match done with
    | 0 => { s with log := { s.log with inHand := some (.writeBack r n 1 data k) } }
    | 1 => { s with log := { s.log with inHand := some (.writeBack r n 2 p data) } }
    | 2 => { s with log := { s.log with inHand := some (.writeBack r n 3 p k) } }
    | _ => s.endItem
  | some (.torn _ _) => s.endItem
  | none => s

/-- The access in hand is the last of a fault record (R123). -/
def InHand.atRecordEnd : InHand → Bool
  | .record _ _ done => decide (8 ≤ done + 1)
  | .writeBack .. | .torn .. => false

/-- The access in hand is the fourth of a write-back (R101). -/
def InHand.atWriteBackEnd : InHand → Bool
  | .writeBack _ _ done _ _ => decide (3 ≤ done)
  | .record .. | .torn .. => false

/-- A TORN header rewrite of the region at `base`. -/
def Item.isTornOf (base : Addr) : Item → Bool
  | .torn b _ => b == base
  | .record .. | .writeBack .. => false

def InHand.isTornOf (base : Addr) : InHand → Bool
  | .torn b _ => b == base
  | .record .. | .writeBack .. => false

/-- The Record Writer's access is being carried at the memory port. -/
def State.writerCarried (s : State) : Bool := s.cycle.any fun c => c.req == .writer

/-- A TORN header rewrite of the region at `base` that is not yet granted is withdrawn (R75, R175). -/
def State.withdrawTorn (s : State) (base : Addr) : State :=
  let waiting : State := { s with log := { s.log with queue := s.log.queue.filter fun i => !i.isTornOf base } }
  if s.log.inHand.any (InHand.isTornOf base) && !s.writerCarried then waiting.endItem else waiting

/-- The queue with the period of the region's waiting write-back replaced (R100). -/
def replacePeriod (r : Fin 64) (n : Word) : List Item → List Item
  | [] => []
  | .writeBack r' n' :: rest => if r' = r then .writeBack r n :: rest else .writeBack r' n' :: replacePeriod r n rest
  | i :: rest => i :: replacePeriod r n rest

def Item.isWriteBackOf (r : Fin 64) : Item → Bool
  | .writeBack r' _ => r' == r
  | .record .. | .torn .. => false

/-- A learned-period write-back is handed over: it replaces the period of the region's waiting one, or joins the tail
(R100). -/
def State.handWriteBack (s : State) (r : Fin 64) (n : Word) : State :=
  if s.log.queue.any (Item.isWriteBackOf r) then
    { s with log := { s.log with queue := replacePeriod r n s.log.queue } }
  else s.enqueue (.writeBack r n)

/-! ## The alert (R129, R130, R131) -/

/-- A write of ALERT MASK sets the mask set (R129). -/
def State.setMask (s : State) (v : Word) : State :=
  { s with alert := { s.alert with mask := v.extractLsb' 0 8 } }.evalAlert

/-- A write of ALERT PENDING clears the named causes and starts the holdoff for n × 64 µs, or stops it when n is 0
(R130). -/
def State.acknowledge (s : State) (v : Word) : State :=
  { s with
    alert :=
      { s.alert with
        pending := s.alert.pending &&& ~~~(v.extractLsb' 0 8)
        holdoff := if s.alert.n = 0#8 then none else some (s.after (s.alert.n.toNat * 64)) } }.evalAlert

/-- The holdoff stops running (R131). -/
def State.endHoldoff (s : State) : State := { s with alert := { s.alert with holdoff := none } }.evalAlert

/-- FAULT CONSUMER takes `v` when it is 0 to 63 and (P − v) modulo 64 is no greater than the occupancy (R125). -/
def FaultLog.consumes (l : FaultLog) (v : Word) : Bool :=
  decide (v.toNat ≤ 63) && decide ((l.producer - v.extractLsb' 0 6).toNat ≤ l.occupancy)

end Sys2Proof.Machine
end

