-- ==== Sys2Proof/Machine/Deferral.lean ====
section
/-! DEFINITION. Deferral and the hold timer of a region (section 4.2). -/

namespace Sys2Proof.Machine

/-- A region is deferring while it holds a SEALED slot, its session entry is OPEN and its hold limit is greater than 0
(R65). -/
def State.deferring (s : State) (r : Fin 64) : Bool :=
  match s.region? r with
  | some x =>
    (s.sealedLink r).isSome && decide (0 < x.entry.hold)
      && (s.sessionLink r).any fun e => e.state == .open
  | none => false

/-- The region record learns of a change to what decides its deferral: the hold timer starts for the full hold when the
region becomes deferring (R66), is stopped when the deferral ends (R67, R68), and is else left as it runs. -/
def State.noteDeferral (s : State) (r : Fin 64) : State :=
  let now := s.deferring r
  s.updRegion r fun x =>
    if now then
      match x.holdTimer with
      | some _ => x
      | none => { x with holdTimer := some (s.after (x.entry.hold * 32)) }
    else { x with holdTimer := none }

/-- A hold timer expires: the session entry becomes BROKEN, the deferral ends, the timer stops (R69). -/
def State.expireHold (s : State) (r : Fin 64) : State :=
  (s.breakSession r).updRegion r fun x => { x with holdTimer := none }

end Sys2Proof.Machine
end

