-- ==== Sys2Proof/Machine/StagePool.lean ====
section
/-! DEFINITION. The Stage Pool: owner body writes, seals, owner body reads and the list of waiting writes (chapter 2). -/

namespace Sys2Proof.Machine

/-! ## The list of waiting writes (R23) -/

/-- An entry joins the list in order of its arrival (R23, R154). -/
def insertWaiting (e : WaitEntry) : List WaitEntry → List WaitEntry
  | [] => [e]
  | e' :: rest => if e.order < e'.order then e :: e' :: rest else e' :: insertWaiting e rest

/-- The region holds S+C: a SEALED and a COMMITTING slot (R20). -/
def State.holdsSealedAndCommitting (s : State) (r : Fin 64) : Bool :=
  (s.sealedLink r).isSome && (s.committingLink r).isSome

/-- The cause a waiting write waits with: COMMIT while it is a body write whose region holds S+C, else SLOT (R23). -/
def State.stageCause (s : State) (r : Fin 64) (ask : StageAsk) : WaitCause :=
  match ask with
  | .body _ => if s.holdsSealedAndCommitting r then .commit else .slot
  | .seal => .slot

/-- The access at `p` waits in the list (R23). -/
def State.waitForSlot (s : State) (p : Port) (r : Fin 64) (ask : StageAsk) (value : Word) : State :=
  let order := match (s.port p).access with
    | some a => a.order
    | none => s.arrivals
  let e : WaitEntry := { port := p, region := r, ask := ask, value := value, order := order }
  { s with waiting := insertWaiting e s.waiting }.hold p (s.stageCause r ask) .ownerWrite

/-! ## Giving a slot -/

/-- Slot `k` is given to the region as FILLING with one word (R22). -/
def State.giveFilling (s : State) (k : Fin 12) (r : Fin 64) (off : Nat) (value : Word) : State :=
  s.setSlot k { state := .filling, region := some r, words := [(off, value)] }

/-- Slot `k` joins the tail of the Commit Queue as SEALED, and the region record is told (R35, R62). -/
def State.sealAs (s : State) (k : Fin 12) (r : Fin 64) (words : List (Nat × Word)) : State :=
  { s.setSlot k { state := .sealed, region := some r, words := words } with
    commitQueue := s.commitQueue ++ [k] }.noteDeferral r

/-- Slot `k` is given to a waiting write, with the combination its region holds now: a body write as R22 gives, a seal as R32
gives (R24). A region whose write waits has no FILLING slot, and one whose seal waits no SEALED slot; if it had, a slot of it
would be taken as R21, R30 and R33 give (log 20). -/
def State.giveSlot (s : State) (k : Fin 12) (r : Fin 64) (ask : StageAsk) (value : Word) : State :=
  match ask, s.fillingLink r, s.sealedLink r with
  | .body off, none, _ => s.giveFilling k r off value
  | .body off, some f, _ => s.setSlot f { s.slots[f] with words := cellsPut s.slots[f].words off value }
  | .seal, none, none => s.sealAs k r []
  | .seal, some f, none => s.sealAs f r s.slots[f].words
  | .seal, _, some _ => s

/-- An entry of the list is served when it is eligible and a slot is FREE: it leaves the list, is taken and completes
(R24). Otherwise it waits on, with the cause that now holds (R23). -/
def State.serveEntry (s : State) (e : WaitEntry) : State :=
  match s.stageCause e.region e.ask, s.freeSlot with
  | .slot, some k =>
    ({ s with waiting := s.waiting.filter fun w => w.port != e.port }.giveSlot k e.region e.ask e.value).endAccess e.port
      none
  | c, _ => s.hold e.port c .ownerWrite

/-- The entries of a list served one after the other. -/
def serveList : List WaitEntry → State → State
  | [], s => s
  | e :: rest, s => serveList rest (s.serveEntry e)

/-- FREE slots are given to the eligible entries in their order of arrival (R24). -/
def State.serveWaiting (s : State) : State := serveList s.waiting s

/-! ## Owner writes (R21 to R23, R29 to R33) -/

/-- An owner body write to offset `off` of region `r` by port `p`. -/
def State.ownerBodyWrite (s : State) (p : Port) (r : Fin 64) (off : Nat) (value : Word) : State :=
  match s.fillingLink r with
  | some k =>
    let x := s.slots[k]
    (s.setSlot k { x with words := cellsPut x.words off value }).endAccess p none
  | none =>
    if s.holdsSealedAndCommitting r then s.waitForSlot p r (.body off) value
    else
      match s.freeSlot with
      | some k => (s.giveFilling k r off value).endAccess p none
      | none => s.waitForSlot p r (.body off) value

/-- The words of the SEALED slot with those of the FILLING slot merged in: the newer value wins (R31). -/
def mergeWords (sealedWords : List (Nat × Word)) : List (Nat × Word) → List (Nat × Word)
  | [] => sealedWords
  | (off, w) :: rest => mergeWords (cellsPut sealedWords off w) rest

/-- An owner write to the header word of region `r`: a seal (R29, Table 2-3). -/
def State.ownerSeal (s : State) (p : Port) (r : Fin 64) : State :=
  match s.fillingLink r, s.sealedLink r with
  | some f, none => (s.sealAs f r s.slots[f].words).endAccess p none
  | some f, some k =>
    let x := s.slots[k]
    ((((s.setSlot k { x with words := mergeWords x.words s.slots[f].words }).setSlot f Slot.empty).endAccess p
      none)).serveWaiting
  | none, some _ => s.endAccess p none
  | none, none =>
    match s.freeSlot with
    | some k => (s.sealAs k r []).endAccess p none
    | none => s.waitForSlot p r .seal 0#16

/-! ## Owner body reads (R27) -/

/-- The value a linked slot holds for an offset. -/
def State.slotValue (s : State) (link : Option (Fin 12)) (off : Nat) : Option Word :=
  match link with
  | some k => cellsGet s.slots[k].words off
  | none => none

/-- The newest slot's value for an offset: FILLING, then SEALED, then COMMITTING; none when memory answers (R27). -/
def State.stagedValue (s : State) (r : Fin 64) (off : Nat) : Option Word :=
  (s.slotValue (s.fillingLink r) off).or
    ((s.slotValue (s.sealedLink r) off).or (s.slotValue (s.committingLink r) off))

/-- An owner body read: answered from a slot at once, or passed to the arbiter with cause ARBITER (R27). -/
def State.ownerBodyRead (s : State) (p : Port) (r : Fin 64) (off : Nat) : State :=
  match s.stagedValue r off with
  | some w => s.endAccess p (some w)
  | none => s.hold p .arbiter .memory

/-! ## Drain and power failure -/

/-- The FILLING slot of region `r` is discarded with a STAGE fault (R37). -/
def State.discardFilling (s : State) (r : Fin 64) : State :=
  match s.fillingLink r, s.region? r with
  | some k, some x => (s.setSlot k Slot.empty).raise (.stage r x.entry.tag s.slots[k].words.length)
  | _, _ => s

/-- Every FILLING slot is discarded in ascending region index (R37). -/
def State.discardAllFilling (s : State) : State :=
  (List.finRange 64).foldl State.discardFilling s

/-- The access of a waiting write waits on with cause LOAD (R26). -/
def holdAllOnLoad : List WaitEntry → State → State
  | [], s => s
  | e :: rest, s => holdAllOnLoad rest (s.hold e.port .load .unclassed)

/-- At DRAINING entry the list is withdrawn: its accesses wait on with cause LOAD (R26). -/
def State.withdrawWaiting (s : State) : State := holdAllOnLoad s.waiting { s with waiting := [] }

/-- Every FILLING and SEALED slot is freed, the Commit Queue and the list of waiting writes are emptied (R159). -/
def State.freeStaged (s : State) : State :=
  { s with
    slots := Vector.ofFn fun k : Fin 12 => if s.slots[k].state = .committing then s.slots[k] else Slot.empty
    commitQueue := []
    waiting := [] }

end Sys2Proof.Machine
end

