-- ==== Sys2Proof/Machine/SessionTables.lean ====
section
/-! DEFINITION. The Session Tables and the header and body reads of a region's reader; the owner's header read (chapter 3,
section 1.5). -/

namespace Sys2Proof.Machine

/-- The most entries a Session Table holds (R39). -/
def sessionLimit : Nat := 8

/-- The value a header read of region `r` is answered with (Table 1-5). -/
def Region.readValue (x : Region) (result : HeaderResult) (staged : Bool) : Word :=
  readHeader x.gen x.header x.stale result staged

/-- An owner's header read: answered at once with result OWNER and the staged field (R13). -/
def State.ownerHeaderRead (s : State) (p : Port) (r : Fin 64) : State :=
  match s.region? r with
  | some x => s.endAccess p (some (x.readValue .owner (s.fillingLink r).isSome))
  | none => s

/-- A full table gives up its oldest entry, which ends any deferral that entry caused (R46). -/
def State.evict (s : State) (p : Port) : State :=
  match s.sessions p with
  | [] => s
  | e :: rest => if sessionLimit ≤ (s.sessions p).length then (s.setSessions p rest).noteDeferral e.region else s

/-- A session on region `r` opens in the table of port `p` with the next open order (R45). -/
def State.openSession (s : State) (p : Port) (r : Fin 64) : State :=
  (s.setSessions p (s.sessions p ++ [{ region := r, state := .open }])).noteDeferral r

/-- The session on region `r` leaves the table of port `p` (R47). -/
def State.closeSession (s : State) (p : Port) (r : Fin 64) : State :=
  (s.setSessions p ((s.sessions p).filter fun e => e.region != r)).noteDeferral r

/-- The result of a closing read: INTACT when the entry is OPEN and the region is not TORN, else BROKEN (R47, R53). -/
def closeResult (e : Session) (h : HeaderState) : HeaderResult :=
  if e.state = .open ∧ h ≠ .torn then .intact else .broken

/-- A reader header read is taken by the Session Table: it closes the region's session, or opens one (R44 to R47). -/
def State.takeReaderHeader (s : State) (p : Port) (r : Fin 64) : State :=
  match s.region? r with
  | some x =>
    match sessionIn (s.sessions p) r with
    | some e => (s.closeSession p r).endAccess p (some (x.readValue (closeResult e x.header) false))
    | none => ((s.evict p).openSession p r).endAccess p (some (x.readValue .open false))
  | none => s

/-- A region's header state is COMMITTING. -/
def State.committing (s : State) (r : Fin 64) : Bool :=
  match s.region? r with
  | some x => x.header == .committing
  | none => false

/-- A reader header read: taken at once, or it waits with cause COMMIT while the region is COMMITTING (R44, R49). -/
def State.readerHeaderRead (s : State) (p : Port) (r : Fin 64) : State :=
  if s.committing r then s.hold p .commit (.readerHeader r) else s.takeReaderHeader p r

/-- A reader body read: handed to the arbiter, or it waits with cause COMMIT while the region is COMMITTING (R55). -/
def State.readerBodyRead (s : State) (p : Port) (r : Fin 64) : State :=
  s.hold p (if s.committing r then .commit else .arbiter) (.readerBody r)

/-- The access at `p`, if it waits with cause COMMIT for region `r`, is released at the commit's completion: a header read
is taken (R49), a body read is handed to the arbiter (R55). -/
def State.releaseReader (s : State) (p : Port) (r : Fin 64) : State :=
  match (s.port p).access with
  | some a =>
    if a.phase = .held .commit ∧ a.cls = .readerHeader r then s.takeReaderHeader p r
    else if a.phase = .held .commit ∧ a.cls = .readerBody r then s.hold p .arbiter (.readerBody r)
    else s
  | none => s

/-- A reader body read of region `r` waiting for its grant at `p` is withdrawn from the arbiter and waits with cause
COMMIT (R56). -/
def State.withdrawReader (s : State) (p : Port) (r : Fin 64) : State :=
  match (s.port p).access with
  | some a =>
    if a.phase = .held .arbiter ∧ a.cls = .readerBody r then s.hold p .commit (.readerBody r) else s
  | none => s

/-- A reader access that waits with cause COMMIT at DRAINING entry waits on with cause LOAD (R59). -/
def State.commitWaitToLoad (s : State) (p : Port) : State :=
  match (s.port p).access with
  | some a => if a.phase = .held .commit then s.hold p .load .unclassed else s
  | none => s

end Sys2Proof.Machine
end

