-- ==== Sys2Proof/Machine/Deadlines.lean ====
section
/-! DEFINITION. The Deadline Unit: update deadlines, stale regions, learning (chapter 5). -/

namespace Sys2Proof.Machine

/-- A region's deadline is watched when its update period is greater than 0 and its learn flag is clear (R91). -/
def Entry.watched (e : Entry) : Bool := decide (0 < e.period) && !e.learn

/-- The region with its deadline timer armed afresh for its full period from the time `now`, or left disarmed (R91). -/
def Region.arm (x : Region) (now : Time) : Region :=
  if x.entry.watched then { x with deadline := some (now + BitVec.ofNat 32 (x.entry.period * 1000)) }
  else { x with deadline := none }

/-- The region with its deadline timer disarmed (R95, R96). -/
def Region.disarm (x : Region) : Region := { x with deadline := none }

/-- The interval of a sample in ms, rounded up (R98). -/
def intervalMs (last now : Time) : Nat := ((now - last).toNat + 999) / 1000

/-- The learned period of a longest interval with `m` eighths of margin (R99). -/
def learnedPeriod (longest m : Nat) : Nat := min ((longest * (8 + m) + 7) / 8) 65535

/-- The longest interval rises to `ms`: the learned period is formed, and handed over when it differs from the last
proposed one (R98, R99). -/
def State.raiseLongest (s : State) (r : Fin 64) (x : Region) (ms : Nat) : State :=
  let n := learnedPeriod ms (s.ldr.margin.getD 0)
  if n = x.proposed then s.updRegion r fun y => { y with longest := ms }
  else (s.updRegion r fun y => { y with longest := ms, proposed := n }).handWriteBack r (BitVec.ofNat 16 n)

/-- A learning sample is taken at a commit completion (R97, R98). -/
def State.takeSample (s : State) (r : Fin 64) (x : Region) : State :=
  match x.lastCommit with
  | none => s.updRegion r fun y => { y with lastCommit := some s.time }
  | some last =>
    let timed := s.updRegion r fun y => { y with lastCommit := some s.time }
    if x.longest < intervalMs last s.time then timed.raiseLongest r x (intervalMs last s.time) else timed

/-- The Deadline Unit is told of a commit completion of region `r`: a learning region gives a sample, another is armed
afresh (R85, R91, R97). -/
def State.deadlineCompletion (s : State) (r : Fin 64) : State :=
  match s.region? r with
  | some x => if x.entry.learn then s.takeSample r x else s.updRegion r fun y => y.arm s.time
  | none => s

/-- A deadline expires: stale is set, a STALE fault is raised, and in ACTIVE a diagnosis is requested for an IDLE region
with conditions; the timer is disarmed (R92, R95, R107). -/
def State.expireDeadline (s : State) (r : Fin 64) : State :=
  match s.region? r with
  | some x =>
    let marked := (s.updRegion r fun y => { y with stale := true, deadline := none }).raise
      (.stale r x.entry.tag x.entry.period)
    if s.part = .active ∧ 0 < x.entry.condCount ∧ s.diagStatus r = .idle then
      { marked with diagQueue := marked.diagQueue ++ [r] }
    else marked
  | none => s

end Sys2Proof.Machine
end

