-- ==== Sys2Proof/Machine/Diagnosis.lean ====
section
/-! DEFINITION. The Diagnosis Engine: conditions, the scan and its report (chapter 6). -/

namespace Sys2Proof.Machine

/-- Condition `c` of the live pool. -/
def State.condition (s : State) (c : Nat) : Condition :=
  match s.live with
  | some l => l.conds.getD c { addr := 0#18, sense := .equal, mask := 0#16, expected := 0#16 }
  | none => { addr := 0#18, sense := .equal, mask := 0#16, expected := 0#16 }

/-- A condition is met: the masked word equals the expected value for EQUAL, differs from it for DIFFER (R105). -/
def Condition.met (c : Condition) (observed : Word) : Bool :=
  match c.sense with
  | .equal => decide (observed &&& c.mask = c.expected)
  | .differ => decide (observed &&& c.mask ≠ c.expected)

/-- The address is a word of a region whose header state is COMMITTING (R111). -/
def State.inCommitting (s : State) (a : Addr) : Bool :=
  match s.regionAt a with
  | some r => s.committing r
  | none => false

/-- The scan takes up the condition at its position: HELD while its word lies in a COMMITTING region, else REQUESTED
(R111). -/
def State.takeUp (s : State) (c : Scan) : State :=
  { s with
    scan := some { c with step := if s.inCommitting (s.condition c.position).addr then .held else .requested } }

/-- The scan of the region at the head of the Diagnosis Queue starts (R109). -/
def State.beginScan (s : State) : State :=
  match s.diagQueue with
  | r :: rest =>
    match s.region? r with
    | some x =>
      { s with diagQueue := rest }.takeUp
        { region := r, tag := x.entry.tag, position := x.entry.condFirst, step := .requested, recovered := false }
    | none => s
  | [] => s

/-- The last position of the scanned region's list, first + count − 1 (R106). -/
def State.lastCondition (s : State) (r : Fin 64) : Nat :=
  match s.region? r with
  | some x => x.entry.condFirst + x.entry.condCount - 1
  | none => 0

/-- The scan ends at a read of its condition: the condition is unmet, or it is the last of the list (R112). -/
def State.scanEndsWith (s : State) (c : Scan) (observed : Word) : Bool :=
  !(s.condition c.position).met observed || decide (s.lastCondition c.region ≤ c.position)

/-- The DIAG fault at the end of a scan (R117, Table 6-3). -/
def State.diagFault (s : State) (c : Scan) (observed : Word) : FaultDetail :=
  if (s.condition c.position).met observed then .diag c.region c.tag false 0 0#18 0#16 c.recovered
  else .diag c.region c.tag true c.position (s.condition c.position).addr observed c.recovered

/-- A condition read completes with its observed value: the scan ends with its DIAG fault, or takes up the next condition
(R112). -/
def State.testCondition (s : State) (c : Scan) (observed : Word) : State :=
  if s.scanEndsWith c observed then { s with scan := none }.raise (s.diagFault c observed)
  else s.takeUp { c with position := c.position + 1 }

/-- The Diagnosis Engine's read is being carried at the memory port. -/
def State.diagCarried (s : State) : Bool := s.cycle.any fun c => c.req == .diag

/-- At a commit start of region `r` a condition read of a word of `r` that is not yet granted is withdrawn and HELD
(R111). -/
def State.holdScan (s : State) (r : Fin 64) : State :=
  match s.scan with
  | some c =>
    if c.step = .requested ∧ s.regionCovers r (s.condition c.position).addr = true ∧ s.diagCarried = false then
      { s with scan := some { c with step := .held } }
    else s
  | none => s

/-- At a commit completion of region `r` a HELD read of a word of `r` is made (R111). -/
def State.releaseScan (s : State) (r : Fin 64) : State :=
  match s.scan with
  | some c =>
    if c.step = .held ∧ s.regionCovers r (s.condition c.position).addr = true then
      { s with scan := some { c with step := .requested } }
    else s
  | none => s

/-- At a commit completion of region `r` its queued request is withdrawn (R114), and its scan in progress is marked
recovered (R113). -/
def State.diagCompletion (s : State) (r : Fin 64) : State :=
  { s with
    diagQueue := s.diagQueue.filter fun q => q != r
    scan := s.scan.map fun (c : Scan) => if c.region = r then { c with recovered := true } else c }.releaseScan r

end Sys2Proof.Machine
end

