-- ==== Sys2Proof/Machine/CommitEngine.lean ====
section
/-! DEFINITION. The Commit Engine: selection, the commit start, the commit's writes and its completion (chapter 4). -/

namespace Sys2Proof.Machine

/-- The slot's region is deferring. -/
def State.slotDeferring (s : State) (k : Fin 12) : Bool :=
  match s.slots[k].region with
  | some r => s.deferring r
  | none => false

/-- The slot the IDLE engine selects: in ACTIVE the oldest whose region is not deferring (R72), in DRAINING the head of the
queue (R73). -/
def State.selected (s : State) : Option (Fin 12) :=
  match s.commit, s.part with
  | none, .active => s.commitQueue.find? fun k => !s.slotDeferring k
  | none, .draining => s.commitQueue.head?
  | _, _ => none

/-- The commit of slot `k` of region `r` starts (R74), with the withdrawals that the start makes (R56, R75, R111). -/
def State.startCommit (s : State) (k : Fin 12) (r : Fin 64) (x : Region) : State :=
  let c : CommitRec :=
    { slot := k, region := r, base := x.entry.base, oldGen := x.gen, step := .opening
      next := (s.slots[k].words.head?).map Prod.fst }
  let started : State :=
    { s.setSlot k { s.slots[k] with state := .committing } with
      commitQueue := s.commitQueue.filter fun j => j != k
      commit := some c }
  ((((started.updRegion r fun y => { y with header := .committing }).breakSession r).withdrawReader
    x.entry.writer.other r).holdScan r).withdrawTorn x.entry.base

/-- The selected slot's commit starts, when there is one (R72). -/
def State.startSelected (s : State) : State :=
  match s.selected with
  | some k =>
    match s.slots[k].region with
    | some r =>
      match s.region? r with
      | some x => s.startCommit k r x
      | none => s
    | none => s
  | none => s

/-- The offset the commit writes next, after offset `off` (R76). -/
def nextOffset (words : List (Nat × Word)) (off : Nat) : Option Nat :=
  (words.find? fun cell => decide (off < cell.1)).map Prod.fst

/-- The write the commit makes next: address and value (R76). -/
def State.commitWrite (s : State) (c : CommitRec) : Addr × Word :=
  match c.step, c.next with
  | .opening, _ => (c.base, storedHeader c.oldGen .committing)
  | .body, some off => (offsetAddr c.base off, (cellsGet s.slots[c.slot].words off).getD 0#16)
  | .body, none => (c.base, storedHeader (c.oldGen + 1) .clean)
  | .closing, _ => (c.base, storedHeader (c.oldGen + 1) .clean)

/-- The write being made is the CLOSING write (R76). -/
def CommitRec.atClosing (c : CommitRec) : Bool :=
  match c.step with
  | .opening => false
  | .body => c.next.isNone
  | .closing => true

/-- The commit record after a write that is not the CLOSING one (R76). -/
def State.commitAdvance (s : State) (c : CommitRec) : CommitRec :=
  match c.step, c.next with
  | .opening, some _ => { c with step := .body }
  | .opening, none => { c with step := .closing }
  | .body, some off =>
    match nextOffset s.slots[c.slot].words off with
    | some off' => { c with next := some off' }
    | none => { c with step := .closing, next := none }
  | .body, none => c
  | .closing, _ => c

/-- What the completion does outside PFAIL to the blocks that wait on it: the waiting writes and readers (R84), the
Deadline Unit and the Diagnosis Engine (R85). -/
def State.tellCompletion (s : State) (r : Fin 64) : State :=
  ((((s.serveWaiting.releaseReader .a r).releaseReader .b r).deadlineCompletion r).diagCompletion r)

/-- A commit completes: the region takes the new generation and CLEAN, stale is cleared, the slot is freed, the engine is
IDLE (R83, R84). In PFAIL no other block is told (R160). -/
def State.finishCommit (s : State) (c : CommitRec) : State :=
  let done : State :=
    { (s.updRegion c.region fun y => { y with gen := c.oldGen + 1, header := .clean, stale := false }).setSlot c.slot
        Slot.empty with
      commit := none }
  if s.part = .pfail then done else done.tellCompletion c.region

/-- The commit's write carried at the memory port completes (R76, R83). -/
def State.commitWriteDone (s : State) : State :=
  match s.commit with
  | some c => if c.atClosing then s.finishCommit c else { s with commit := some (s.commitAdvance c) }
  | none => s

end Sys2Proof.Machine
end

