-- ==== Sys2Proof/Machine/Classifier.lean ====
section
/-! DEFINITION. The arrival of an access, the Access Classifier, the Status Block and the Control Area protection
(sections 1.3, 7.7, 8.1, 10.1, 10.2). -/

namespace Sys2Proof.Machine

/-! ## The Status Block (section 7.7) -/

/-- What a read of a Status Block word by port `p` is answered with (Tables 7-3 and 8-11, R135). -/
def State.statusValue (s : State) (p : Port) (word : Fin 16) : Word :=
  match word with
  | 0 => s.part.code
  | 1 => s.ldr.result.word
  | 2 => s.alert.mask.setWidth 16
  | 3 => s.alert.pending.setWidth 16
  | 4 => s.alert.n.setWidth 16
  | 5 => s.log.producer.setWidth 16
  | 6 => s.log.consumer.setWidth 16
  | 7 => s.log.nextSeq
  | 8 => s.time.extractLsb' 0 16
  | 9 => (s.port p).latch
  | 10 => BitVec.ofNat 16 s.freeSlots
  | 11 => BitVec.ofNat 16 s.commitQueue.length
  | 12 => BitVec.ofNat 16 s.sessionsA.length
  | 13 => BitVec.ofNat 16 s.sessionsB.length
  | 14 => BitVec.ofNat 16 s.diagQueue.length
  | _ => s.ldr.liveCheck

/-- A TIME LOW read writes the high half of the Time Count into the port's latch (R89). -/
def State.latchTime (s : State) (p : Port) : State :=
  s.setPort p { s.port p with latch := s.time.extractLsb' 16 16 }

/-- A Status Block read: answered at once; a TIME LOW read latches (R135, R89). -/
def State.statusRead (s : State) (p : Port) (word : Fin 16) : State :=
  (if word = 8 then s.latchTime p else s).endAccess p (some (s.statusValue p word))

/-- A refused write completes at once and raises a PROTECT fault (R8, R136, R138). -/
def State.refuse (s : State) (p : Port) (addr : Addr) (value : Word) : State :=
  (s.endAccess p none).raise (.protect p addr value)

/-- A write of ALERT HOLDOFF sets n, or is refused above 255 (R131). -/
def State.writeHoldoff (s : State) (p : Port) (addr : Addr) (value : Word) : State :=
  if value.toNat ≤ 255 then
    { s with alert := { s.alert with n := value.extractLsb' 0 8 } }.endAccess p none
  else s.refuse p addr value

/-- A write of FAULT CONSUMER sets C, or is refused (R125). -/
def State.writeConsumer (s : State) (p : Port) (addr : Addr) (value : Word) : State :=
  if s.log.consumes value then
    { s with log := { s.log with consumer := value.extractLsb' 0 6 } }.endAccess p none
  else s.refuse p addr value

/-- A Status Block write outside LOADING and PFAIL: taken, or refused (R136). -/
def State.statusWrite (s : State) (p : Port) (addr : Addr) (value : Word) : State :=
  match p, statusWord addr with
  | .a, 2 => (s.setMask value).endAccess p none
  | .a, 3 => (s.acknowledge value).endAccess p none
  | .a, 4 => s.writeHoldoff p addr value
  | .a, 6 => s.writeConsumer p addr value
  | _, _ => s.refuse p addr value

/-! ## Dispatch (R168, Table 10-2) -/

/-- A port A write of 0001H or 0002H to the command word, and the command it is (R141). -/
def commandOf (p : Port) (dir : Dir) (addr : Addr) (value : Word) : Option Command :=
  if p = .a ∧ dir = .write ∧ addr = commandAddr then
    if value = 1#16 then some .load else if value = 2#16 then some .unload else none
  else none

/-- A LOAD fault with reason code BUSY and entry index 0 (R141, R142). -/
def State.raiseBusy (s : State) : State := s.raise (.load busyCode 0)

/-- In PFAIL an access is ended at its arrival: a read is answered FFFFH, a write dropped (R158); a command write is
detected as BUSY (R142, R162). -/
def State.endInPfail (s : State) (p : Port) (a : Access) : State :=
  let ended := s.endAccess p (endedValue a.dir)
  if (commandOf p a.dir a.addr a.value).isSome then ended.raiseBusy else ended

/-- Table 8-2 refuses a Control Area write in ACTIVE and DRAINING: every host write to the Fault Log, and port B writes to
the Table Header, Region Table and Condition Pool (R138). -/
def protectedWrite (p : Port) (dir : Dir) (addr : Addr) : Bool :=
  decide (dir = .write) && (inFaultLog addr || (inTableWords addr && decide (p = .b)))

/-- Passed to the Memory Arbiter as a claim of the port, with cause ARBITER (R169). -/
def State.passToMemory (s : State) (p : Port) : State := s.hold p .arbiter .memory

/-- The wait of an access for the end of a part state (R9). -/
def State.waitForState (s : State) (p : Port) : State := s.hold p .load .unclassed

/-- An access to a word of live region `r` in ACTIVE (Table 1-4, R7, R8). -/
def State.regionAccess (s : State) (p : Port) (a : Access) (r : Fin 64) (x : Region) : State :=
  let off := x.entry.offset a.addr
  if x.entry.writer = p then
    match a.dir with
    | .write => if off = 0 then s.ownerSeal p r else s.ownerBodyWrite p r off a.value
    | .read => if off = 0 then s.ownerHeaderRead p r else s.ownerBodyRead p r off
  else
    match a.dir with
    | .write => s.refuse p a.addr a.value
    | .read => if off = 0 then s.readerHeaderRead p r else s.readerBodyRead p r

/-- A Status Block access (Table 10-2, first row). -/
def State.statusAccess (s : State) (p : Port) (a : Access) : State :=
  match a.dir with
  | .read => s.statusRead p (statusWord a.addr)
  | .write => if s.part = .loading then s.waitForState p else s.statusWrite p a.addr a.value

/-- A Control Area access outside the Status Block (Table 10-2, second row; R138). -/
def State.controlAccess (s : State) (p : Port) (a : Access) : State :=
  match s.part with
  | .loading => s.waitForState p
  | .active | .draining => if protectedWrite p a.dir a.addr then s.refuse p a.addr a.value else s.passToMemory p
  | .bypass | .pfail => s.passToMemory p

/-- An access below the Control Area (Table 10-2, last two rows; R7, R9, R10). -/
def State.lowAccess (s : State) (p : Port) (a : Access) : State :=
  match s.part with
  | .loading => s.waitForState p
  | .bypass | .pfail => s.passToMemory p
  | .draining => if (s.regionAt a.addr).isSome then s.waitForState p else s.passToMemory p
  | .active =>
    match s.regionAt a.addr with
    | some r =>
      match s.region? r with
      | some x => s.regionAccess p a r x
      | none => s.passToMemory p
    | none => s.passToMemory p

/-- The classifier takes the access `a` in flight at `p`: PFAIL ends it, else the first class that matches (R168). -/
def State.dispatch (s : State) (p : Port) (a : Access) : State :=
  if s.part = .pfail then s.endInPfail p a
  else if inStatusBlock a.addr then s.statusAccess p a
  else if inControlArea a.addr then s.controlAccess p a
  else s.lowAccess p a

/-! ## Arrival (R166) -/

/-- The access a port takes at an arrival: it takes the wait limit in force and starts its timer (R166, R155, R171). -/
def State.newAccess (s : State) (dir : Dir) (addr : Addr) (value : Word) : Access :=
  { dir := dir, addr := addr, value := value, arrival := s.time, order := s.arrivals, limit := s.ldr.waitLimit
    timer := some (s.after s.ldr.waitLimit), phase := .held .arbiter, cls := .unclassed, waitedLoad := false }

/-- The port takes the access `a` in flight, drives nothing yet, and the arrival is counted (R166, log 17). -/
def State.register (s : State) (p : Port) (a : Access) : State :=
  { s.setPort p { s.port p with access := some a, driven := none } with arrivals := s.arrivals + 1 }

/-- An access arrives at port `p` and is handed to the classifier at the same event (R166). -/
def State.arrive (s : State) (p : Port) (dir : Dir) (addr : Addr) (value : Word) : State :=
  (s.register p (s.newAccess dir addr value)).dispatch p (s.newAccess dir addr value)

/-- While RESET_N is low a port records the first access its strobes assert (R173). -/
def State.record (s : State) (p : Port) (dir : Dir) (addr : Addr) (value : Word) : State :=
  match (s.port p).recorded with
  | some _ => s
  | none => s.setPort p { s.port p with recorded := some { dir := dir, addr := addr, value := value } }

/-- An access offered at port `p`: its strobes, inactive before, assert it. It is taken when the port is IDLE; while an access
is in flight, or while the strobes are held low, there is no arrival (R166); while RESET_N is low it is recorded (R173). -/
def State.offer (s : State) (p : Port) (dir : Dir) (addr : Addr) (value : Word) : State :=
  if s.pins.powered = false ∨ (s.port p).strobes = true then s
  else if s.pins.resetTaken then (s.strobe p).record p dir addr value
  else
    match (s.port p).access with
    | some _ => s.strobe p
    | none => (s.strobe p).arrive p dir addr value

/-! ## Taking afresh (R154) -/

/-- The access at `p`, if it waits with cause LOAD, is taken as though it arrived now (R9, R154). -/
def State.takeAfresh (s : State) (p : Port) : State :=
  match (s.port p).access with
  | some a => if a.phase = .held .load then s.dispatch p a else s
  | none => s

/-- The access at `p` waits with cause LOAD. -/
def State.waitsOnLoad (s : State) (p : Port) : Bool :=
  (s.port p).access.any fun a => a.phase == .held .load

/-- The state the accesses with cause LOAD waited on has ended: each is taken afresh; two released at one event are taken
in either order (R154, log 4). -/
def State.releaseLoad (s : State) : State :=
  if s.waitsOnLoad .a && s.waitsOnLoad .b then
    let t : State := { s with freeIndex := s.freeIndex + 1 }
    if Config.portAFirst s.freeIndex then (t.takeAfresh .a).takeAfresh .b else (t.takeAfresh .b).takeAfresh .a
  else (s.takeAfresh .a).takeAfresh .b

end Sys2Proof.Machine
end

