-- ==== Sys2Proof/Machine/TableLoader.lean ====
section
/-! DEFINITION. The Table Loader: validation, the load, the torn scan, draining and unloading (chapter 8). -/

namespace Sys2Proof.Machine

/-! ## Validation (R145, Table 8-5) -/

/-- The enabled entries in ascending index. -/
def enabledEntries (ws : List Word) : List (Fin 64) := (List.finRange 64).filter (entryEnabled ws)

/-- A check over the enabled entries: the first that fails, with the check's code. -/
def firstFailing (ws : List Word) (code : Nat) (fails : Fin 64 → Bool) : Option LoadResult :=
  ((enabledEntries ws).find? fails).map fun i => { code := code, index := i.val }

/-- A check over the Table Header; the entry index reported is 0. -/
def headerCheck (code : Nat) (fails : Bool) : Option LoadResult :=
  if fails then some { code := code, index := 0 } else none

def lengthFails (ws : List Word) (i : Fin 64) : Bool :=
  decide (entryLen ws i < 2) || decide (256 < entryLen ws i)

/-- base + L − 1, counted without wrap, is 3F000H or more. -/
def placeFails (ws : List Word) (i : Fin 64) : Bool :=
  decide (0x3F000 ≤ (entryBase ws i).toNat + entryLen ws i - 1)

/-- Two entries share a word. -/
def sharesWord (ws : List Word) (i j : Fin 64) : Bool :=
  decide ((entryBase ws i).toNat < (entryBase ws j).toNat + entryLen ws j)
    && decide ((entryBase ws j).toNat < (entryBase ws i).toNat + entryLen ws i)

/-- Entry `j` shares a word with an enabled entry of lower index. -/
def overlapFails (ws : List Word) (j : Fin 64) : Bool :=
  (enabledEntries ws).any fun i => decide (i < j) && sharesWord ws i j

def condListFails (ws : List Word) (i : Fin 64) : Bool :=
  let e := parseEntry ws i
  decide (16 < e.condCount) || decide (256 < e.condFirst + e.condCount)

/-- The first condition of the lists, entry by entry in list order, whose address is 3F000H or above. -/
def condAddrCheck (ws : List Word) : Option LoadResult :=
  ((enabledEntries ws).flatMap fun i =>
      let e := parseEntry ws i
      (List.range e.condCount).map (e.condFirst + ·)).find?
    (fun c => decide (0x3F000 ≤ (parseCondition ws c).addr.toNat)) |>.map fun c => { code := 10, index := c }

/-- The first check of Table 8-5 that the shadow fails, with its entry index; none when it passes every check (R145). -/
def validate (ws : List Word) : Option LoadResult :=
  (headerCheck 1 (headerWord ws 0 ≠ 1#16)).or <|
  (headerCheck 2 (formCheck ws ≠ headerWord ws 5)).or <|
  (headerCheck 3 (headerWord ws 3 = 0#16)).or <|
  (headerCheck 4 (headerWord ws 4 = 0#16 ∨ 8 < (headerWord ws 4).toNat)).or <|
  (firstFailing ws 5 fun i => (entryWriter ws i).isNone).or <|
  (firstFailing ws 6 (lengthFails ws)).or <|
  (firstFailing ws 7 (placeFails ws)).or <|
  (firstFailing ws 8 (overlapFails ws)).or <|
  (firstFailing ws 9 (condListFails ws)).or (condAddrCheck ws)

/-! ## The load (R143, R144, R147, R148, R149) -/

/-- The shadow as far as it is read. -/
def State.shadowWords (s : State) : List Word := s.ldr.shadow.getD []

def State.setWork (s : State) (w : LoaderWork) : State := { s with ldr := { s.ldr with work := w } }

/-- A load starts: the part enters LOADING with an origin, an empty shadow is created and the shadow read begins (R141,
R143, R144, R152). -/
def State.startLoad (s : State) (o : Origin) : State :=
  { s with part := .loading, ldr := { s.ldr with work := .shadowRead, shadow := some [], origin := some o } }

/-- The torn scan of the entries `rest`, or the clearing write when none is left (R147). -/
def scanWork (rest : List (Fin 64)) (found : List Found) : LoaderWork :=
  match rest with
  | [] => .clearSuccess found
  | i :: more => .tornScan i more found

/-- At the last shadow read the shadow is validated: the torn scan follows, or the clearing write of a failed load (R145,
R147, R149). -/
def State.endShadowRead (s : State) (ws : List Word) : State :=
  match validate ws with
  | some reason => s.setWork (.clearFailure reason)
  | none => s.setWork (scanWork (enabledEntries ws) [])

/-- A shadow read completes with the word read (R144). -/
def State.shadowReadDone (s : State) (data : Word) : State :=
  let ws := s.shadowWords ++ [data]
  let read : State := { s with ldr := { s.ldr with shadow := some ws } }
  if shadowSize ≤ ws.length then read.endShadowRead ws else read

/-- A stored state that the torn scan takes as TORN with a rewrite and a fault: COMMITTING or the fourth code (R147). -/
def cutState (w : Word) : Bool := decide (storedState w = 0b01#2) || decide (storedState w = 0b11#2)

/-- The torn-scan read of entry `i` completes with the stored header word: generation and state are taken, and a cut commit
raises a TORN fault and queues a rewrite, the record before the rewrite (R147). -/
def State.tornScanDone (s : State) (i : Fin 64) (rest : List (Fin 64)) (found : List Found) (w : Word) : State :=
  let f : Found := { region := i, gen := storedGen w, torn := decide (storedState w ≠ 0b00#2) }
  let next := s.setWork (scanWork rest (found ++ [f]))
  if cutState w then
    (next.raise (.torn i (parseEntry s.shadowWords i).tag (storedGen w))).enqueue
      (.torn (entryBase s.shadowWords i) (storedGen w))
  else next

/-- A region's state record at load (Table 1-3), with its deadline armed at the ACTIVE entry (R5, R91). -/
def newRegion (e : Entry) (gen : BitVec 10) (torn : Bool) (now : Time) : Region :=
  ({ entry := e, gen := gen, header := if torn then .torn else .clean, stale := false, holdTimer := none, deadline := none
     lastCommit := none, longest := 0, proposed := e.period } : Region).arm now

/-- The live table the shadow becomes, with the generation and state the torn scan took (R5, R148). -/
def newLive (ws : List Word) (found : List Found) (now : Time) : Live :=
  { regions := Vector.ofFn fun i : Fin 64 =>
      if entryEnabled ws i then
        match found.find? fun f => f.region == i with
        | some f => some (newRegion (parseEntry ws i) f.gen f.torn now)
        | none => none
      else none
    conds := parseConditions ws }

/-- The swap at the end of a load that passed validation (R148). -/
def State.swap (s : State) (found : List Found) : State :=
  let ws := s.shadowWords
  { s with
    part := .active
    live := some (newLive ws found s.time)
    retained := none
    sessionsA := []
    sessionsB := []
    ldr :=
      { s.ldr with
        work := .idle
        shadow := none
        origin := none
        waitLimit := (headerWord ws 3).toNat
        margin := some (headerWord ws 4).toNat
        liveCheck := formCheck ws
        result := { code := 0, index := 0 } } }

/-- A load ends with success: the swap, then the accesses that waited are taken afresh (R148, R154). -/
def State.succeedLoad (s : State) (found : List Found) : State := (s.swap found).releaseLoad

/-- A region as a failed reload returns it: its deadline armed afresh, its completion time cleared (R149, R95, R103). -/
def Region.returned (x : Region) (now : Time) : Region := { x.arm now with lastCommit := none }

/-- The part returns to the origin of a load that failed: to BYPASS, or to ACTIVE with the retained table (R149). -/
def State.returnToOrigin (s : State) : State :=
  match s.ldr.origin with
  | some .active =>
    { s with
      part := .active
      live := s.retained.map fun l => l.mapRegions fun x => x.returned s.time
      retained := none
      ldr := { s.ldr with origin := none } }
  | some .bypass | none => { s with part := .bypass, ldr := { s.ldr with origin := none } }

/-- The shadow table is dropped and LOAD RESULT takes the failure's pair (R149). -/
def State.dropShadow (s : State) (reason : LoadResult) : State :=
  { s with ldr := { s.ldr with work := .idle, shadow := none, result := reason } }

/-- A load ends with failure: a LOAD fault is raised, the shadow is dropped, the part returns to the origin, and the
accesses that waited are taken afresh (R149, R154). -/
def State.failLoad (s : State) (reason : LoadResult) : State :=
  ((((s.raise (.load reason.code reason.index)).dropShadow reason).returnToOrigin)).releaseLoad

/-! ## Draining (R151, R152, R153) -/

/-- Every session entry is marked BROKEN and every hold timer stopped (R59, R70). -/
def State.breakSessions (s : State) : State :=
  { s with sessionsA := breakAll s.sessionsA, sessionsB := breakAll s.sessionsB }.mapRegions
    fun x => { x with holdTimer := none }

/-- DRAINING entry with a pending command: each block takes its part (R151). -/
def State.enterDraining (s : State) (c : Command) : State :=
  let entered : State := { s with part := .draining, ldr := { s.ldr with command := some c }, diagQueue := [] }
  (((entered.withdrawWaiting.commitWaitToLoad .a).commitWaitToLoad .b).breakSessions).discardAllFilling

/-- A command is taken at the completion of its write: `waited` when the write waited with cause LOAD (R141, R142). -/
def State.takeCommand (s : State) (c : Command) (waited : Bool) : State :=
  if waited then s.raiseBusy
  else
    match s.part, c with
    | .bypass, .load => s.startLoad .bypass
    | .bypass, .unload => s
    | .active, _ => s.enterDraining c
    | .loading, _ | .draining, _ | .pfail, _ => s.raiseBusy

/-- The four conditions of the drain's end hold, with a command pending and the unload's clearing write not begun (R152). -/
def State.drainEnds (s : State) : Bool :=
  decide (s.part = .draining) && s.ldr.command.isSome && decide (s.ldr.work = .idle) && s.commitQueue.isEmpty
    && s.commit.isNone && s.scan.isNone && s.log.inHand.isNone && s.log.queue.isEmpty

/-- The drain ends: the deadline timers are disarmed, and the Loader acts on the pending command (R152, R95). -/
def State.endDrain (s : State) : State :=
  let disarmed := s.mapRegions Region.disarm
  match s.ldr.command with
  | some .load =>
    { disarmed with
      live := none
      retained := disarmed.live
      ldr := { s.ldr with command := none } }.startLoad .active
  | some .unload => disarmed.setWork .clearUnload
  | none => disarmed

/-- An unload ends: the live table is discarded, the Session Tables are emptied, LIVE CHECK becomes 0, the part enters
BYPASS, and the accesses that waited are taken afresh (R153, R154). -/
def State.finishUnload (s : State) : State :=
  { s with
    part := .bypass
    live := none
    sessionsA := []
    sessionsB := []
    ldr := { s.ldr with work := .idle, command := none, liveCheck := 0#16 } }.releaseLoad

/-! ## The Loader's memory accesses -/

/-- The access the Loader's work asks for: direction, address, value. -/
def State.loaderAccess (s : State) : Option (Dir × Addr × Word) :=
  match s.ldr.work with
  | .idle => none
  | .startUpFormat => some (.read, formatAddr, 0#16)
  | .startUpAutoload _ => some (.read, autoloadAddr, 0#16)
  | .shadowRead => some (.read, BitVec.ofNat 18 (controlBase + s.shadowWords.length), 0#16)
  | .tornScan i _ _ => some (.read, entryBase s.shadowWords i, 0#16)
  | .clearSuccess _ | .clearFailure _ | .clearUnload => some (.write, commandAddr, 0#16)

/-- The second start-up read completes: a load starts when both values are 0001H, else the part stays in BYPASS (R143). -/
def State.startUpDone (s : State) (format autoload : Word) : State :=
  if format = 1#16 ∧ autoload = 1#16 then s.startLoad .bypass else s.setWork .idle

/-- What the completion of the Loader's access does outside PFAIL, by the work in hand. -/
def State.loaderAdvance (s : State) (data : Word) : State :=
  match s.ldr.work with
  | .idle => s
  | .startUpFormat => s.setWork (.startUpAutoload data)
  | .startUpAutoload format => s.startUpDone format data
  | .shadowRead => s.shadowReadDone data
  | .tornScan i rest found => s.tornScanDone i rest found data
  | .clearSuccess found => s.succeedLoad found
  | .clearFailure reason => s.failLoad reason
  | .clearUnload => s.finishUnload

/-- The Loader's access carried at the memory port completes with the word read; in PFAIL its value is dropped (R161). -/
def State.loaderDone (s : State) (data : Word) : State := if s.part = .pfail then s else s.loaderAdvance data

end Sys2Proof.Machine
end

