-- ==== Sys2Proof/Machine/Power.lean ====
section
/-! DEFINITION. Power failure, reset, release and loss of supply (chapter 9, sections 8.4 and 10.4, R180). -/

namespace Sys2Proof.Machine

/-! ## PFAIL_N falling (R157 to R163) -/

/-- The access in flight at `p` is ended: a read is answered FFFFH, a write dropped (R158). -/
def State.endByPfail (s : State) (p : Port) : State :=
  match (s.port p).access with
  | some a => s.endAccess p (endedValue a.dir)
  | none => s

/-- The causes that become pending when waiting items are dropped: a dropped fault record is a lost fault, which sets its
cause and OVERFLOW pending (R133, R128; log 24). -/
def droppedCauses : List Item → BitVec 8
  | [] => 0#8
  | .record f :: rest => f.detail.cause ||| overflowCause ||| droppedCauses rest
  | .writeBack _ _ :: rest => droppedCauses rest
  | .torn _ _ :: rest => droppedCauses rest

/-- The Record Writer's items still waiting are dropped; the one in hand is kept (R133). -/
def State.dropQueue (s : State) : State :=
  { s with
    log := { s.log with queue := [] }
    alert := { s.alert with pending := s.alert.pending ||| droppedCauses s.log.queue } }

/-- The holdoff is stopped and ALERT_N released (R127, R131, R133). -/
def State.stopAlert (s : State) : State := { s with alert := { s.alert with holdoff := none } }.evalAlert

/-- PFAIL_N falling is taken: the part enters PFAIL and each block takes its part (R157, Table 9-1). -/
def State.enterPfail (s : State) : State :=
  let ended := ((s.endByPfail .a).endByPfail .b).freeStaged.dropQueue
  ({ ended with
      part := .pfail
      pins := { ended.pins with pfailDue := false }
      ldr := { ended.ldr with work := .idle } }.mapRegions
    fun x => { x with holdTimer := none, deadline := none }).stopAlert

/-- A low PFAIL_N level is taken as a fall, unless the part is in PFAIL already (R157, R180). -/
def State.takeFall (s : State) : State := if s.part = .pfail then s else s.enterPfail

/-- A PFAIL_N level that was low at the release is taken as a fall before the memory port completes anything (R157,
log 13). -/
def State.takeDueFall (s : State) : State := if s.pins.pfailDue then s.takeFall else s

/-! ## The memory port cut -/

/-- Memory with the write carried at the memory port made (R82, R134, R173, R178). -/
def State.memCarried (s : State) : Memory :=
  match s.cycle with
  | some c =>
    match c.dir with
    | .write => memWrite s.mem c.addr c.data
    | .read => s.mem
  | none => s.mem

/-- The memory port carries a write. -/
def State.writeCarried (s : State) : Bool := s.cycle.any fun c => c.dir == .write

/-! ## RESET_N (R180, R173, R140) -/

/-- The access a port records while RESET_N is low: the one in flight when RESET_N fell (R173). The strobes are the host's and
keep their level. -/
def PortRec.recordInFlight (r : PortRec) : PortRec :=
  { PortRec.idle with
    strobes := r.strobes
    recorded := r.access.map fun a => { dir := a.dir, addr := a.addr, value := a.value } }

/-- The reset takes effect: the cycle carried is finished at the memory port (log 11), everything else of the part is
lost, and each port records the access it held (R19, R41, R64, R82, R134, R156, R173, R178). The part state stands until the
release, the one event of a reset at which it changes (R140, R157). -/
def State.resetTakes (s : State) : State :=
  { State.reset with
    pending := s.pending
    part := s.part
    pins :=
      { s.pins with
        powered := true, resetN := false, resetLowPeriods := 0, resetTaken := true, pfailDue := false }
    portA := s.portA.recordInFlight
    portB := s.portB.recordInFlight
    mem := s.memCarried
    ldr := { State.reset.ldr with work := .idle }
    arrivals := s.arrivals
    freeIndex := s.freeIndex }

/-- The REFCLK periods RESET_N has been low: those counted so far or those a command names, whichever are more; with REFCLK
stopped no period is counted (R180, log 14). -/
def Pins.lowPeriods (q : Pins) (periods : Nat) : Nat :=
  if q.refclk then max periods q.resetLowPeriods else q.resetLowPeriods

/-- RESET_N has been low for `periods` REFCLK periods: from 160 on the reset takes effect, below that the pulse is being
timed (R180). A PFAIL_N level still to be taken since the last release is taken first, whatever the count (R157, log 13). -/
def State.resetLow (s : State) (periods : Nat) : State :=
  if s.pins.resetTaken then s
  else if s.pins.refclk = true ∧ 160 ≤ s.pins.lowPeriods periods then s.takeDueFall.resetTakes
  else if s.pins.powered then
    let t := s.takeDueFall
    { t with pins := { t.pins with resetN := false, resetLowPeriods := s.pins.lowPeriods periods } }
  else s

/-- The 160 periods are counted, and the reset they bring has not been taken yet (R180, log 14). -/
def State.resetDue (s : State) : Bool := s.running && s.pins.refclk && decide (160 ≤ s.pins.resetLowPeriods)

/-- A reset that is due takes effect, as it does at the end of the 160 periods (R180). -/
def State.takeDueReset (s : State) : State := if s.resetDue then s.resetLow s.pins.resetLowPeriods else s

/-- The access a port recorded is taken as an arrival at the release (R173). -/
def State.takeRecorded (s : State) (p : Port) (rec : Option Recorded) : State :=
  match rec with
  | some q => s.arrive p q.dir q.addr q.value
  | none => s

/-- The part right after the release, before the recorded accesses are taken: every block at its reset value, memory as it
stands, a low PFAIL_N still to be taken (R140, R157, R165). -/
def State.released (s : State) (pfailLow : Bool) : State :=
  { State.reset with
    pending := s.pending
    pins := { State.reset.pins with refclk := s.pins.refclk, pfailN := !pfailLow, pfailDue := pfailLow }
    portA := { PortRec.idle with strobes := s.portA.strobes }
    portB := { PortRec.idle with strobes := s.portB.strobes }
    mem := s.mem
    arrivals := s.arrivals
    freeIndex := s.freeIndex }

/-- RESET_N is released: the part enters BYPASS and the recorded accesses are taken as arrivals; two of them in either
order (R140, R173, log 4). -/
def State.release (s : State) (pfailLow : Bool) : State :=
  let t := s.released pfailLow
  if s.portA.recorded.isSome && s.portB.recorded.isSome then
    let u : State := { t with freeIndex := t.freeIndex + 1 }
    if Config.portAFirst t.freeIndex then
      (u.takeRecorded .a s.portA.recorded).takeRecorded .b s.portB.recorded
    else (u.takeRecorded .b s.portB.recorded).takeRecorded .a s.portA.recorded
  else (t.takeRecorded .a s.portA.recorded).takeRecorded .b s.portB.recorded

/-- A low pulse that ends before 160 periods is ignored; a low PFAIL_N is then taken as a fall (R180). -/
def State.endShortPulse (s : State) (pfailLow : Bool) : State :=
  let t : State := { s with pins := { s.pins with resetN := true, resetLowPeriods := 0, pfailN := !pfailLow } }
  if pfailLow then t.takeFall else t

/-- PFAIL_N falls: taken, unless RESET_N is low or a low pulse is being timed (R157, R180). -/
def State.pfailFalls (s : State) : State :=
  let t : State := { s with pins := { s.pins with pfailN := false } }
  if s.pins.resetN then t.takeFall else t

/-! ## Loss of supply (R164) -/

/-- The part without its supply: each piece of work stops at the access the supply fails in (R164). Nothing of the part's
own state survives (R165, log 18). -/
def State.unpowered (s : State) (mem : Memory) : State :=
  { State.reset with
    pending := s.pending
    pins := { s.pins with powered := false, resetLowPeriods := 0, resetTaken := false, pfailDue := false }
    mem := mem
    ldr := { State.reset.ldr with work := .idle }
    arrivals := s.arrivals
    freeIndex := s.freeIndex }

/-- The supply fails: whether a write being carried is made is free (R164, log 5). -/
def State.loseSupply (s : State) : State :=
  if s.writeCarried then
    let t : State := { s with freeIndex := s.freeIndex + 1 }
    if Config.cutWriteMade s.freeIndex then t.unpowered s.memCarried else t.unpowered s.mem
  else s.unpowered s.mem

end Sys2Proof.Machine
end

