-- ==== Sys2Proof/Machine/Arbiter.lean ====
section
/-! DEFINITION. The Memory Arbiter, the memory port and the wait-limit timer of a host access (sections 10.3 and 10.5). -/

namespace Sys2Proof.Machine

/-! ## Claims (R174, R175, R177) -/

/-- A port A write to the period word or the check word is held back while a write-back of that region is in hand, from the
grant of its first read to the completion of its fourth access (R177). `carried`: an access of the item is being carried. -/
def InHand.holdsBack (h : InHand) (carried : Bool) (addr : Addr) : Bool :=
  match h with
  | .writeBack r _ done _ _ =>
    (carried || decide (1 ≤ done)) && (decide (addr = periodAddr r) || decide (addr = checkAddr))
  | .record .. | .torn .. => false

/-- The port is a claimant: its access waits with cause ARBITER and its claim is made (R174, R177). In PFAIL the arbiter takes
no claim of a port (R163, R178). -/
def State.portClaims (s : State) (p : Port) : Bool :=
  match (s.port p).access with
  | some a =>
    a.phase == .held .arbiter && decide (s.part ≠ .pfail)
      && !(p == .a && a.dir == .write && s.log.inHand.any fun h => h.holdsBack s.writerCarried a.addr)
  | none => false

/-- The Commit Engine's request (R76, R77). -/
def State.commitRequest (s : State) : Option Cycle :=
  s.commit.map fun c =>
    { req := .commit, dir := .write, addr := (s.commitWrite c).1, data := (s.commitWrite c).2 }

/-- The Table Loader's request; a read takes the word memory holds (R176). In PFAIL it has none (R161). -/
def State.loaderRequest (s : State) : Option Cycle :=
  match if s.part = .pfail then none else s.loaderAccess with
  | some (.read, addr, _) => some { req := .loader, dir := .read, addr := addr, data := memRead s.mem addr }
  | some (.write, addr, w) => some { req := .loader, dir := .write, addr := addr, data := w }
  | none => none

/-- The Record Writer's request (R101, R123). -/
def State.writerRequest (s : State) : Option Cycle :=
  match s.log.inHand.map InHand.access with
  | some (.read, addr, _) => some { req := .writer, dir := .read, addr := addr, data := memRead s.mem addr }
  | some (.write, addr, w) => some { req := .writer, dir := .write, addr := addr, data := w }
  | none => none

/-- The Diagnosis Engine's request; in PFAIL it has none (R110, R116). -/
def State.diagRequest (s : State) : Option Cycle :=
  match s.scan with
  | some c =>
    if c.step = .requested ∧ s.part.regionsLive = true then
      let addr := (s.condition c.position).addr
      some { req := .diag, dir := .read, addr := addr, data := memRead s.mem addr }
    else none
  | none => none

/-- The internal request chosen by fixed priority: Commit Engine, Table Loader, Record Writer, Diagnosis Engine (R175). -/
def State.internalRequest (s : State) : Option Cycle :=
  s.commitRequest.or (s.loaderRequest.or (s.writerRequest.or s.diagRequest))

/-- The cycle of a port's claim: a read takes the word memory holds at the grant (R176). -/
def State.portRequest (s : State) (p : Port) : Option Cycle :=
  if s.portClaims p then
    (s.port p).access.map fun a =>
      { req := .port p, dir := a.dir, addr := a.addr
        data := match a.dir with
          | .read => memRead s.mem a.addr
          | .write => a.value }
  else none

/-- The cycle a claimant asks for; none when it is not waiting. -/
def State.claim (s : State) : Claimant → Option Cycle
  | .a => s.portRequest .a
  | .b => s.portRequest .b
  | .internal => s.internalRequest

/-! ## The grant (R174) -/

/-- After A comes B, after B Internal, after Internal A. -/
def Claimant.next : Claimant → Claimant
  | .a => .b
  | .b => .internal
  | .internal => .a

/-- The first waiting claimant in rotation from the pointer, with its cycle. -/
def State.chosen (s : State) : Option (Claimant × Cycle) :=
  let c1 := s.pointer
  let c2 := c1.next
  let c3 := c2.next
  ((s.claim c1).map (Prod.mk c1)).or (((s.claim c2).map (Prod.mk c2)).or ((s.claim c3).map (Prod.mk c3)))

/-- A granted port enters GRANTED and its wait-limit timer stops (R169, R171). -/
def State.markGranted (s : State) (req : Requester) : State :=
  match req with
  | .port p => s.updAccess p fun a => { a with phase := .granted, timer := none }
  | .commit | .loader | .writer | .diag => s

/-- The idle memory port is granted to the chosen claimant and the pointer moves past it; with no claim waiting nothing
changes (R174). -/
def State.grant (s : State) : State :=
  match s.cycle, s.chosen with
  | none, some (who, c) => ({ s with cycle := some c, pointer := who.next }).markGranted c.req
  | _, _ => s

/-! ## The completion of a memory cycle (R176) -/

/-- A granted host access completes: a read is answered with the word taken at the grant (R167); a command write is then
taken as a command (R141). In PFAIL the host was already answered (R158, R162). -/
def State.hostDone (s : State) (p : Port) (c : Cycle) : State :=
  let waited := (s.port p).access.any fun a => a.waitedLoad
  let answered :=
    if s.part = .pfail then s
    else s.endAccess p (match c.dir with
      | .read => some c.data
      | .write => none)
  match commandOf p c.dir c.addr c.data with
  | some cmd => answered.takeCommand cmd waited
  | none => answered

/-- A condition read completes; in PFAIL its value is dropped (R112, R116). -/
def State.diagDone (s : State) (observed : Word) : State :=
  match s.scan with
  | some c => if s.part = .pfail then s else s.testCondition c observed
  | none => s

/-- The carried cycle `c` completes: the memory port is idle, a write is stored, and the requester takes the result (R176). -/
def State.completeCycle (s : State) (c : Cycle) : State :=
  let t : State := { s with mem := s.memCarried, cycle := none }
  match c.req with
  | .port p => t.hostDone p c
  | .commit => t.commitWriteDone
  | .loader => t.loaderDone c.data
  | .writer => t.writerAdvance c.data
  | .diag => t.diagDone c.data

/-- The memory cycle in progress completes, after a PFAIL_N level that was still to be taken; with no cycle in progress
nothing changes (R176, log 13). -/
def State.complete (s : State) : State :=
  let t := s.takeDueFall
  match t.cycle with
  | some c => t.completeCycle c
  | none => t

/-! ## Which completion is at hand -/

/-- The carried cycle is a port A write of a command value to 3F001H (R141). -/
def State.commandCarried (s : State) (cmd : Command) : Bool :=
  match s.cycle with
  | some c =>
    match c.req with
    | .port p => commandOf p c.dir c.addr c.data == some cmd
    | .commit | .loader | .writer | .diag => false
  | none => false

/-- The carried cycle belongs to a requester. -/
def State.carries (s : State) (req : Requester) : Bool := s.cycle.any fun c => c.req == req

/-- The carried cycle is the CLOSING write of the commit (R83). -/
def State.closingCarried (s : State) : Bool := s.carries .commit && s.commit.any CommitRec.atClosing

/-- The carried cycle is the condition read that ends the scan (R112). -/
def State.scanEndCarried (s : State) : Bool :=
  match s.cycle, s.scan with
  | some c, some sc => c.req == .diag && decide (s.part ≠ .pfail) && s.scanEndsWith sc c.data
  | _, _ => false

/-- The carried cycle is the last access of the item in hand of a kind. -/
def State.recordEndCarried (s : State) : Bool := s.carries .writer && s.log.inHand.any InHand.atRecordEnd

def State.writeBackEndCarried (s : State) : Bool := s.carries .writer && s.log.inHand.any InHand.atWriteBackEnd

/-- The carried cycle is the 1552nd shadow read (R145). -/
def State.shadowEndCarried (s : State) : Bool :=
  s.carries .loader && decide (s.ldr.work = .shadowRead) && decide (shadowSize ≤ s.shadowWords.length + 1)

/-- The carried cycle is the second start-up read, and both values qualify (R143). -/
def State.startUpQualifies (s : State) : Bool :=
  match s.cycle, s.ldr.work with
  | some c, .startUpAutoload format => c.req == .loader && decide (format = 1#16) && decide (c.data = 1#16)
  | _, _ => false

/-- The carried cycle is the clearing write of a load that passed validation (R148). -/
def State.successCarried (s : State) : Bool :=
  s.carries .loader && match s.ldr.work with
    | .clearSuccess _ => true
    | _ => false

/-- The carried cycle is the clearing write of a load that failed validation (R149). -/
def State.failureCarried (s : State) : Bool :=
  s.carries .loader && match s.ldr.work with
    | .clearFailure _ => true
    | _ => false

/-- The carried cycle is the clearing write of an unload (R153). -/
def State.unloadCarried (s : State) : Bool := s.carries .loader && decide (s.ldr.work = .clearUnload)

/-! ## The wait limit (R171) -/

/-- The wait limit of the access at `p` expires: the access is ended and removed from what it waited for, and a WAIT fault
with the cause that holds is raised (R171, R25, R49, R57). -/
def State.expireWait (s : State) (p : Port) (a : Access) (cause : WaitCause) : State :=
  ({ s with waiting := s.waiting.filter fun w => w.port != p }.endAccess p (endedValue a.dir)).raise
    (.wait p a.addr a.dir cause)

end Sys2Proof.Machine
end

