-- ==== Sys2Proof/Machine/EngineCommands.lean ====
section
/-! DEFINITION. The meanings of the commands of the arbiter, the memory port and the part's engines. A row that is the
completion of a particular memory cycle is that completion (log 8); where the event is not there nothing changes (log 1). -/

namespace Sys2Proof.Machine

/-- The completion of the carried cycle, when the part takes events and `atHand` names that cycle. -/
def State.completeIf (s : State) (atHand : Bool) : State := if s.running && atHand then s.complete else s

/-- ARBITER_GRANT (R174). -/
def execArbiterGrant (s : State) : Host.Outcome State Fault Refusal := .next (if s.running then s.grant else s)

/-- MEMORY_CYCLE_COMPLETION (R176): whatever cycle is carried. -/
def execMemoryCycleCompletion (s : State) : Host.Outcome State Fault Refusal := .next (s.completeIf s.cycle.isSome)

/-- LOAD_COMMAND (R141): the completion of a port A write of 0001H to 3F001H. -/
def execLoadCommand (s : State) : Host.Outcome State Fault Refusal := .next (s.completeIf (s.commandCarried .load))

/-- UNLOAD_COMMAND (R141): the completion of a port A write of 0002H to 3F001H. -/
def execUnloadCommand (s : State) : Host.Outcome State Fault Refusal := .next (s.completeIf (s.commandCarried .unload))

/-- START_UP_READS_QUALIFY (R143): the completion of the second start-up read, when the values qualify. -/
def execStartUpReadsQualify (s : State) : Host.Outcome State Fault Refusal := .next (s.completeIf s.startUpQualifies)

/-- COMMIT_START (R72, R74). -/
def execCommitStart (s : State) : Host.Outcome State Fault Refusal := .next (if s.running then s.startSelected else s)

/-- COMMIT_COMPLETION (R83): the completion of the CLOSING write. -/
def execCommitCompletion (s : State) : Host.Outcome State Fault Refusal := .next (s.completeIf s.closingCarried)

/-- A scan may start: the engine is IDLE, regions are live (R109, R116). -/
def State.scanStarts (s : State) : Bool := s.running && s.part.regionsLive && s.scan.isNone

/-- SCAN_START (R109). -/
def execScanStart (s : State) : Host.Outcome State Fault Refusal := .next (if s.scanStarts then s.beginScan else s)

/-- SCAN_END (R112): the completion of the condition read that ends the scan. -/
def execScanEnd (s : State) : Host.Outcome State Fault Refusal := .next (s.completeIf s.scanEndCarried)

/-- FAULT_RECORD_END (R123): the completion of the eighth write of a record. -/
def execFaultRecordEnd (s : State) : Host.Outcome State Fault Refusal := .next (s.completeIf s.recordEndCarried)

/-- WRITE_BACK_END (R101): the completion of the fourth access of a write-back. -/
def execWriteBackEnd (s : State) : Host.Outcome State Fault Refusal := .next (s.completeIf s.writeBackEndCarried)

/-- SHADOW_READ_END (R145): the completion of the 1552nd shadow read. -/
def execShadowReadEnd (s : State) : Host.Outcome State Fault Refusal := .next (s.completeIf s.shadowEndCarried)

/-- LOAD_SUCCESS (R148): the completion of the clearing write of a load that passed validation. -/
def execLoadSuccess (s : State) : Host.Outcome State Fault Refusal := .next (s.completeIf s.successCarried)

/-- LOAD_FAILURE (R149): the completion of the clearing write of a load that failed validation. -/
def execLoadFailure (s : State) : Host.Outcome State Fault Refusal := .next (s.completeIf s.failureCarried)

/-- DRAIN_END (R152). -/
def execDrainEnd (s : State) : Host.Outcome State Fault Refusal :=
  .next (if s.running && s.drainEnds then s.endDrain else s)

/-- UNLOAD_END (R153): the completion of the clearing write of an unload. -/
def execUnloadEnd (s : State) : Host.Outcome State Fault Refusal := .next (s.completeIf s.unloadCarried)

end Sys2Proof.Machine
end

