-- ==== Sys2Proof/Machine/HostCommands.lean ====
section
/-! DEFINITION. The meanings of the commands that are accesses at the host ports: ACCESS_ARRIVAL and the Status Block rows. -/

namespace Sys2Proof.Machine

/-- ACCESS_ARRIVAL (R166): with OE_N and WE_N both low the access is a write; with neither low the strobes have returned to
inactive. -/
def execAccessArrival (p : Port) (oe we : Bool) (addr : Addr) (value : Word) (s : State) :
    Host.Outcome State Fault Refusal :=
  .next
    (if we then s.offer p .write addr value
    else if oe then s.offer p .read addr value
    else if s.pins.powered then s.liftStrobes p
    else s)

/-- ALERT_MASK_WRITE (R129): a write of 3F712H by port A. -/
def execAlertMaskWrite (value : Word) (s : State) : Host.Outcome State Fault Refusal :=
  .next (s.offer .a .write (statusAddr 2) value)

/-- ACKNOWLEDGE (R130): a write of 3F713H by port A. -/
def execAcknowledge (value : Word) (s : State) : Host.Outcome State Fault Refusal :=
  .next (s.offer .a .write (statusAddr 3) value)

/-- ALERT_HOLDOFF_WRITE (R131): a write of 3F714H by port A. -/
def execAlertHoldoffWrite (value : Word) (s : State) : Host.Outcome State Fault Refusal :=
  .next (s.offer .a .write (statusAddr 4) value)

/-- FAULT_CONSUMER_WRITE (R125): a write of 3F716H by port A. -/
def execFaultConsumerWrite (value : Word) (s : State) : Host.Outcome State Fault Refusal :=
  .next (s.offer .a .write (statusAddr 6) value)

/-- TIME_LOW_READ (R89): a read of 3F718H. -/
def execTimeLowRead (p : Port) (s : State) : Host.Outcome State Fault Refusal :=
  .next (s.offer p .read (statusAddr 8) 0#16)

/-- STATUS_BLOCK_WRITE_REFUSED (R136): a write to a Status Block word that the port may not write. -/
def execStatusBlockWriteRefused (p : Port) (word : Fin 16) (value : Word) (s : State) :
    Host.Outcome State Fault Refusal :=
  .next (if statusWritable p word then s else s.offer p .write (statusAddr word) value)

end Sys2Proof.Machine
end

