-- ==== Sys2Proof/Machine/LineCommands.lean ====
section
/-! DEFINITION. The meanings of the commands on the part's lines: RESET_N, PFAIL_N and the supply. -/

namespace Sys2Proof.Machine

/-- RESET_N_FALLING (R180): the reset takes effect once RESET_N has been low for 160 REFCLK periods. -/
def execResetNFalling (periods : Nat) (s : State) : Host.Outcome State Fault Refusal := .next (s.resetLow periods)

/-- SHORT_RESET_PULSE_END (R180): a pulse of which 160 periods are counted is not short, and none is being timed once the reset
has taken effect. -/
def execShortResetPulseEnd (pfailLow : Bool) (s : State) : Host.Outcome State Fault Refusal :=
  .next (if s.running && decide (s.pins.resetLowPeriods < 160) then s.endShortPulse pfailLow else s)

/-- RESET_N_RELEASE (R140, R173, R180): the first rising edge of RESET_N once a reset has taken effect; one that is due, its 160
periods counted, has taken effect by then. -/
def execResetNRelease (pfailLow : Bool) (s : State) : Host.Outcome State Fault Refusal :=
  let t := s.takeDueReset
  .next (if t.pins.powered && t.pins.resetTaken then t.release pfailLow else t)

/-- PFAIL_N_FALLING (R157). -/
def execPfailNFalling (s : State) : Host.Outcome State Fault Refusal :=
  .next (if s.pins.powered then s.pfailFalls else s)

/-- LOSS_OF_SUPPLY (R164). -/
def execLossOfSupply (s : State) : Host.Outcome State Fault Refusal :=
  .next (if s.pins.powered then s.loseSupply else s)

end Sys2Proof.Machine
end

