-- ==== Sys2Proof/Machine/TimerCommands.lean ====
section
/-! DEFINITION. The meanings of the commands that are expiries of timers (R88): a timer that is not running, or has not
reached its expiry time, does not expire. -/

namespace Sys2Proof.Machine

/-- The hold timer of region `r` expires now. -/
def State.holdDue (s : State) (r : Fin 64) : Bool :=
  match s.region? r with
  | some x => s.running && s.part.regionsLive && s.due x.holdTimer
  | none => false

/-- The deadline timer of region `r` expires now. -/
def State.deadlineDue (s : State) (r : Fin 64) : Bool :=
  match s.region? r with
  | some x => s.running && s.part.regionsLive && s.due x.deadline
  | none => false

/-- The wait-limit timer of port `p` expires now. -/
def State.waitDue (s : State) (p : Port) : Bool :=
  match (s.port p).access with
  | some a => s.running && s.due a.timer && a.cause?.isSome
  | none => false

/-- The alert holdoff expires now. -/
def State.holdoffDue (s : State) : Bool := s.running && s.due s.alert.holdoff

/-- HOLD_TIMER_EXPIRY (R69). -/
def execHoldTimerExpiry (r : Fin 64) (s : State) : Host.Outcome State Fault Refusal :=
  .next (if s.holdDue r then s.expireHold r else s)

/-- DEADLINE_EXPIRY (R92). -/
def execDeadlineExpiry (r : Fin 64) (s : State) : Host.Outcome State Fault Refusal :=
  .next (if s.deadlineDue r then s.expireDeadline r else s)

/-- WAIT_LIMIT_EXPIRY (R171). -/
def execWaitLimitExpiry (p : Port) (s : State) : Host.Outcome State Fault Refusal :=
  .next
    (if s.waitDue p then
      match (s.port p).access with
      | some a =>
        match a.cause? with
        | some c => s.expireWait p a c
        | none => s
      | none => s
    else s)

/-- HOLDOFF_EXPIRY (R131). -/
def execHoldoffExpiry (s : State) : Host.Outcome State Fault Refusal :=
  .next (if s.holdoffDue then s.endHoldoff else s)

end Sys2Proof.Machine
end

