-- ==== Sys2Proof/Machine/Dispatch.lean ====
section
/-! DEFINITION. One arm per command. -/

namespace Sys2Proof.Machine

def exec (i : Instr) (s : State) : Host.Outcome State Fault Refusal :=
  match i with
  | .accessArrival p oe we addr value => Sys2Proof.Machine.execAccessArrival p oe we addr value s
  | .alertMaskWrite value => Sys2Proof.Machine.execAlertMaskWrite value s
  | .acknowledge value => Sys2Proof.Machine.execAcknowledge value s
  | .alertHoldoffWrite value => Sys2Proof.Machine.execAlertHoldoffWrite value s
  | .faultConsumerWrite value => Sys2Proof.Machine.execFaultConsumerWrite value s
  | .timeLowRead p => Sys2Proof.Machine.execTimeLowRead p s
  | .statusBlockWriteRefused p word value => Sys2Proof.Machine.execStatusBlockWriteRefused p word value s
  | .loadCommand => Sys2Proof.Machine.execLoadCommand s
  | .unloadCommand => Sys2Proof.Machine.execUnloadCommand s
  | .resetNFalling periods => Sys2Proof.Machine.execResetNFalling periods s
  | .shortResetPulseEnd pfailLow => Sys2Proof.Machine.execShortResetPulseEnd pfailLow s
  | .resetNRelease pfailLow => Sys2Proof.Machine.execResetNRelease pfailLow s
  | .startUpReadsQualify => Sys2Proof.Machine.execStartUpReadsQualify s
  | .pfailNFalling => Sys2Proof.Machine.execPfailNFalling s
  | .holdTimerExpiry r => Sys2Proof.Machine.execHoldTimerExpiry r s
  | .deadlineExpiry r => Sys2Proof.Machine.execDeadlineExpiry r s
  | .waitLimitExpiry p => Sys2Proof.Machine.execWaitLimitExpiry p s
  | .holdoffExpiry => Sys2Proof.Machine.execHoldoffExpiry s
  | .arbiterGrant => Sys2Proof.Machine.execArbiterGrant s
  | .memoryCycleCompletion => Sys2Proof.Machine.execMemoryCycleCompletion s
  | .commitStart => Sys2Proof.Machine.execCommitStart s
  | .commitCompletion => Sys2Proof.Machine.execCommitCompletion s
  | .scanStart => Sys2Proof.Machine.execScanStart s
  | .scanEnd => Sys2Proof.Machine.execScanEnd s
  | .faultRecordEnd => Sys2Proof.Machine.execFaultRecordEnd s
  | .writeBackEnd => Sys2Proof.Machine.execWriteBackEnd s
  | .shadowReadEnd => Sys2Proof.Machine.execShadowReadEnd s
  | .loadSuccess => Sys2Proof.Machine.execLoadSuccess s
  | .loadFailure => Sys2Proof.Machine.execLoadFailure s
  | .drainEnd => Sys2Proof.Machine.execDrainEnd s
  | .unloadEnd => Sys2Proof.Machine.execUnloadEnd s
  | .lossOfSupply => Sys2Proof.Machine.execLossOfSupply s

end Sys2Proof.Machine
end

