-- ==== Sys2Proof/Machine/Idle.lean ====
section
/-! DEFINITION. What the part does with no command waiting: what time brings about (logs 2, 3, 14, 15). -/

namespace Sys2Proof.Machine

/-- The events that the present Time Count, a reset pulse timed for 160 periods or a PFAIL_N level still to be taken
brings about, and that must be taken before time goes on (R88, R157, R180). -/
def State.dueEvents (s : State) : List Instr :=
  (if s.running && s.pins.pfailDue then [.pfailNFalling] else [])
    ++ (if s.resetDue then [.resetNFalling s.pins.resetLowPeriods] else [])
    ++ ((List.finRange 64).filter s.holdDue).map Instr.holdTimerExpiry
    ++ ((List.finRange 64).filter s.deadlineDue).map Instr.deadlineExpiry
    ++ ([Port.a, Port.b].filter s.waitDue).map Instr.waitLimitExpiry
    ++ (if s.holdoffDue then [.holdoffExpiry] else [])

/-- One microsecond passes: sixteen REFCLK periods, one count of the Time Count; a RESET_N pulse being timed is sixteen
periods longer (R87, R180). With REFCLK stopped, or while a reset is in effect, nothing is counted. -/
def State.tick (s : State) : State :=
  if s.running && s.pins.refclk then
    { s with
      time := s.time + 1#32
      pins :=
        { s.pins with
          resetLowPeriods := if s.pins.resetN then s.pins.resetLowPeriods else s.pins.resetLowPeriods + 16 } }
  else s

/-- What the step on an empty queue takes: the only event due, one of several due by a free value, or none, so that time
goes on; with the state it is taken in (log 3). -/
def State.idleEvent (s : State) : Option Instr × State :=
  match s.dueEvents with
  | [] => (none, s.tick)
  | [c] => (some c, s)
  | c :: d :: rest =>
    (some ((c :: d :: rest).getD (Config.expiryFirst s.freeIndex % (rest.length + 2)) c),
      { s with freeIndex := s.freeIndex + 1 })

end Sys2Proof.Machine
end

