-- ==== Sys2Proof/Safety.lean ====
section
/-! DEFINITION. What counts as a sound state of the part, in the terms that claims use. -/

namespace Sys2Proof.Machine

/-- Memory is in its canonical form (log 6). -/
def State.memCanonical (s : State) : Prop := Memory.wf s.mem = true

/-- ALERT_N is asserted exactly when the part is not in PFAIL, no holdoff is running, and some unmasked cause is pending
(R127). -/
def State.alertExact (s : State) : Prop :=
  s.alert.asserted = true ↔
    s.part ≠ .pfail ∧ s.alert.holdoff = none ∧ s.alert.pending &&& ~~~s.alert.mask ≠ 0#8

/-- A Session Table holds at most 8 entries, no two of one region (R39, R40). -/
def tableSound (t : List Session) : Prop := t.length ≤ 8 ∧ (t.map Session.region).Nodup

def State.sessionsSound (s : State) : Prop := tableSound s.sessionsA ∧ tableSound s.sessionsB

/-- The occupancy and the record queue together never exceed the 32 records of the ring, and the record queue holds at most 8
(R120, R121, R122). -/
def State.logBounded (s : State) : Prop :=
  s.log.occupancy + s.log.recordCount ≤ 32 ∧ s.log.recordCount ≤ 8

/-- The Commit Queue holds exactly the SEALED slots, each once (R18, R62), and the slot of the commit in progress is
COMMITTING (R64). -/
def State.queueExact (s : State) : Prop :=
  (∀ k : Fin 12, k ∈ s.commitQueue ↔ s.slots[k].state = .sealed) ∧ s.commitQueue.Nodup
    ∧ ∀ c, s.commit = some c → s.slots[c.slot].state = .committing

/-- A region holds at most one slot in each state and never one in all three, and a FREE slot holds nothing (R17, R20); a
COMMITTING slot is the slot of the commit in progress (R64). -/
def State.slotsExact (s : State) : Prop :=
  (∀ j k : Fin 12, s.slots[j].state ≠ .free → s.slots[j].state = s.slots[k].state →
      s.slots[j].region = s.slots[k].region → j = k)
    ∧ (∀ i j k : Fin 12, s.slots[i].state = .filling → s.slots[j].state = .sealed → s.slots[k].state = .committing →
      s.slots[i].region = s.slots[j].region → s.slots[j].region ≠ s.slots[k].region)
    ∧ (∀ k : Fin 12, s.slots[k].state = .free → s.slots[k] = Slot.empty)
    ∧ ∀ k : Fin 12, s.slots[k].state = .committing → s.commit.map CommitRec.slot = some k

/-- The words of each slot stand at one for each offset, in rising order of offset (the model's form of R17's set, log 6). -/
def State.wordsRising (s : State) : Prop := ∀ k : Fin 12, cellsRising s.slots[k].words = true

/-! ## The terms of the claims about host accesses -/

/-- A port that takes an access: the part is running, no access is in flight there and its strobes have returned to inactive
(R166). -/
def State.portReady (s : State) (p : Port) : Prop :=
  s.running = true ∧ (s.port p).access = none ∧ (s.port p).strobes = false

/-- The direction of an access: a write when WE_N is low (R166). -/
def dirOf (we : Bool) : Dir := if we then .write else .read

/-- The state after an access that arrived at `p` and completed at its arrival: the port is idle, its strobes are held, and it
drives `driven` (R166, R167). -/
def State.answered (s : State) (p : Port) (driven : Option Word) : State :=
  { s.setPort p { s.port p with access := none, strobes := true, driven := driven } with arrivals := s.arrivals + 1 }

/-- The state after an access that arrived at `p` and waits there with a cause, under the wait limit in force, its timer running
from the arrival (R166, R170, R171). -/
def State.waitsAt (s : State) (p : Port) (dir : Dir) (addr : Addr) (value : Word) (cause : WaitCause) (cls : AccessClass) :
    State :=
  { s.setPort p
      { s.port p with
        access := some
          { dir := dir, addr := addr, value := value, arrival := s.time, order := s.arrivals, limit := s.ldr.waitLimit
            timer := some (s.time + BitVec.ofNat 32 s.ldr.waitLimit), phase := .held cause, cls := cls
            waitedLoad := cause == .load }
        strobes := true
        driven := none } with
    arrivals := s.arrivals + 1 }

/-- In ACTIVE, port `p` is ready and the address lies in live region `r`, whose record is `x` (R7). -/
def State.accessesRegion (s : State) (p : Port) (addr : Addr) (r : Fin 64) (x : Region) : Prop :=
  s.portReady p ∧ s.part = .active ∧ addr.toNat < 0x3F000 ∧ s.regionAt addr = some r ∧ s.region? r = some x

/-- ALERT_N as R127 gives it for a part state and the sets. -/
def lineFor (part : PartState) (pending mask : BitVec 8) (holdoffRuns : Bool) : Bool :=
  decide (part ≠ .pfail) && !holdoffRuns && decide (pending &&& ~~~mask ≠ 0#8)

/-- The state with the record of region `r` at `x`, every other record as it was. -/
def State.withRegion (s : State) (r : Fin 64) (x : Region) : State :=
  { s with live := s.live.map fun l => { l with regions := l.regions.set r (some x) } }

/-- The hold timer of a region that holds a SEALED slot, whose reader's session entry is `e`: running while that is OPEN and the
hold limit is greater than 0, from now unless it ran already; else stopped (R65 to R68). -/
def Region.holdWhileSealed (x : Region) (e : Option Session) (now : Time) : Option Time :=
  if 0 < x.entry.hold ∧ (e.map Session.state) = some .open then
    some (x.holdTimer.getD (now + BitVec.ofNat 32 (x.entry.hold * 32)))
  else none

end Sys2Proof.Machine
end

