-- ==== Sys2Proof/WellFormed.lean ====
section
/-! DEFINITION. When a command names an event the spec knows: the operands' own types hold every other bound. -/

namespace Sys2Proof

/-- The checks on a command's operands. The refused write is one the Status Block does not take (R136); RESET_N falling needs
RESET_N low for at least one period (R180). -/
def Instr.wellFormed : Instr → Bool
  | .statusBlockWriteRefused p word _ => !Machine.statusWritable p word
  | .resetNFalling periods => decide (0 < periods)
  | .accessArrival _ _ _ _ _ | .alertMaskWrite _ | .acknowledge _ | .alertHoldoffWrite _ | .faultConsumerWrite _ | .timeLowRead _
  | .loadCommand | .unloadCommand | .shortResetPulseEnd _ | .resetNRelease _ | .startUpReadsQualify
  | .pfailNFalling | .holdTimerExpiry _ | .deadlineExpiry _ | .waitLimitExpiry _ | .holdoffExpiry
  | .arbiterGrant | .memoryCycleCompletion | .commitStart | .commitCompletion | .scanStart | .scanEnd
  | .faultRecordEnd | .writeBackEnd | .shadowReadEnd | .loadSuccess | .loadFailure | .drainEnd | .unloadEnd
  | .lossOfSupply => true

end Sys2Proof
end

