-- ==== Sys2Proof/Certificates/Slice0/Obligations.lean ====
section
/-! DEFINITION. The statements for the provers, from the numbered rules of spec/. -/

open Sys2Proof Sys2Proof.Machine

/-! ## The machine -/

/-- The step takes the command at the front of the queue and runs it on the state with the queue's rest. The queue is the
model's own (log 22). -/
def Obligations.StepTakesFrontCommand : Prop :=
  ∀ (c : Instr) (rest : List Instr) (s : State), s.pending = c :: rest → step s = exec c { s with pending := rest }

/-- Every command answers a next state from every state, and leaves the queue and, but for a reset, its release and a loss of
supply, the Time Count as they are. That time passes on the empty queue alone is the model's choice (logs 2, 15, 23). -/
def Obligations.EveryCommandAnswersAndTakesNoTime : Prop :=
  ∀ (c : Instr) (s : State), ∃ t, exec c s = .next t ∧ t.pending = s.pending
    ∧ ((∀ n, c ≠ .resetNFalling n) → (∀ b, c ≠ .resetNRelease b) → c ≠ .lossOfSupply → t.time = s.time)

/-- On an empty queue, with nothing due, one microsecond passes: the Time Count advances by one modulo 2^32, and a RESET_N
pulse that is being timed is sixteen REFCLK periods longer; with REFCLK stopped nothing changes (R87, R180). With something due it
is taken and no time passes: the only event, or one of several. Due are exactly the expiries of the timers whose count is reached,
of live regions, of the waits at the ports and of the holdoff (R88), a reset whose 160 periods are counted (R180), and a PFAIL_N
level still to be taken (R157). The model's own: that the empty queue is where time passes, that nothing passes in a reset or
without the supply (DESIGN CHOICE, log 2), that a free value settles which of several comes first (DESIGN CHOICE, log 3), and the
forms of the due reset and of the due fall (logs 13, 14). -/
def Obligations.IdleStepCountsOneMicrosecond : Prop :=
  ∀ s : State, s.pending = [] →
    (s.running = true → s.dueEvents = [] →
      (s.pins.refclk = true →
        step s = .next
          { s with
            time := s.time + 1
            pins :=
              { s.pins with
                resetLowPeriods := if s.pins.resetN then s.pins.resetLowPeriods else s.pins.resetLowPeriods + 16 } })
      ∧ (s.pins.refclk = false → step s = .next s))
    ∧ (s.running = false → step s = .next s)
    ∧ (∀ c, s.dueEvents = [c] → step s = exec c s)
    ∧ (2 ≤ s.dueEvents.length → ∃ c ∈ s.dueEvents, step s = exec c { s with freeIndex := s.freeIndex + 1 })
    ∧ ∀ c, c ∈ s.dueEvents ↔
        s.running = true
        ∧ (c = .pfailNFalling ∧ s.pins.pfailDue = true
          ∨ s.pins.refclk = true
            ∧ (c = .resetNFalling s.pins.resetLowPeriods ∧ 160 ≤ s.pins.resetLowPeriods
              ∨ (s.part = .active ∨ s.part = .draining)
                ∧ (∃ r x, s.region? r = some x
                    ∧ (c = .holdTimerExpiry r ∧ x.holdTimer = some s.time
                      ∨ c = .deadlineExpiry r ∧ x.deadline = some s.time))
              ∨ (∃ p a cause, c = .waitLimitExpiry p ∧ (s.port p).access = some a ∧ a.timer = some s.time
                  ∧ a.phase = .held cause)
              ∨ c = .holdoffExpiry ∧ s.alert.holdoff = some s.time))

/-- The machine's sound states hold at reset: ALERT_N, the Session Tables, the Fault Log, the Commit Queue and the slots as the
rules bound them (R18, R19, R20, R39 to R41, R62, R64, R120, R127), and memory and the words of the slots in their canonical form,
which is the model's own form of them (DESIGN CHOICE, log 6). -/
def Obligations.ResetStateIsSound : Prop :=
  State.reset.memCanonical ∧ State.reset.alertExact ∧ State.reset.sessionsSound ∧ State.reset.logBounded
    ∧ State.reset.queueExact ∧ State.reset.slotsExact ∧ State.reset.wordsRising

/-- Every step keeps memory in its canonical form (the model's form of memory, log 6). -/
def Obligations.StepKeepsMemoryCanonical : Prop :=
  ∀ s t : State, s.memCanonical → step s = .next t → t.memCanonical

/-- Every step keeps ALERT_N asserted exactly when the part is not in PFAIL, no holdoff is running and some unmasked cause is
pending (R127). -/
def Obligations.StepKeepsAlertLineExact : Prop :=
  ∀ s t : State, s.alertExact → step s = .next t → t.alertExact

/-- Every step keeps each Session Table at no more than 8 entries, no two of one region (R39, R40). -/
def Obligations.StepKeepsSessionTablesSound : Prop :=
  ∀ s t : State, s.sessionsSound → step s = .next t → t.sessionsSound

/-- Every step keeps occupancy and record queue within the ring's 32 records, and the record queue within 8 (R120 to R122). -/
def Obligations.StepKeepsFaultLogBounded : Prop :=
  ∀ s t : State, s.logBounded → step s = .next t → t.logBounded

/-- Every step keeps the Commit Queue exactly the SEALED slots, each once, and the slot of the commit in progress COMMITTING; and
from such a state it keeps R20's limit: a region holds at most one FILLING, one SEALED and one COMMITTING slot, not all three, a
FREE slot holds nothing, and only the slot of the commit in progress is COMMITTING (R17, R18, R20, R62, R64). Every step keeps the
words of each slot at one for each offset, in rising order, which is the model's form of R17's set of offsets (log 6). -/
def Obligations.StepKeepsCommitQueueExact : Prop :=
  ∀ s t : State, step s = .next t →
    (s.queueExact → t.queueExact ∧ (s.slotsExact → t.slotsExact)) ∧ (s.wordsRising → t.wordsRising)

/-- The part leaves PFAIL only at the release of a RESET_N that has taken effect, or whose 160 periods are counted so that it takes
effect at the latest then (R157, R140, R180). The one other way, a loss of the supply, is the model's choice: the state of the
unpowered part stands at its reset values (DESIGN CHOICE, log 18). -/
def Obligations.PfailIsLeftOnlyThroughReset : Prop :=
  ∀ (c : Instr) (s t : State), s.part = .pfail → exec c s = .next t → t.part ≠ .pfail →
    (∃ b, c = .resetNRelease b ∧ (s.pins.resetTaken = true ∨ s.pins.refclk = true ∧ 160 ≤ s.pins.resetLowPeriods))
      ∨ c = .lossOfSupply

/-- With no table set aside, a region's generation changes only at the completion of its commit's CLOSING write, which ends the
cycle and the commit, to the old generation plus one modulo 1024, or at the swap that ends a load: at the completion of its
clearing write, with the part then in ACTIVE (R12). -/
def Obligations.GenerationChangesOnlyAtCompletionOrLoad : Prop :=
  ∀ (c : Instr) (s t : State) (r : Fin 64) (x y : Region), s.retained = none → exec c s = .next t →
    s.region? r = some x → t.region? r = some y → y.gen ≠ x.gen →
    (∃ cm, s.commit = some cm ∧ cm.region = r ∧ s.closingCarried = true ∧ y.gen = cm.oldGen + 1
        ∧ t.cycle = none ∧ t.commit = none)
      ∨ s.successCarried = true ∧ t.cycle = none ∧ t.ldr.work = .idle ∧ t.part = .active

/-- A word of memory changes only by the write that the memory port carries, and takes that write's value (R176). -/
def Obligations.MemoryChangesOnlyByTheCarriedWrite : Prop :=
  ∀ (c : Instr) (s t : State) (a : Addr), exec c s = .next t → memRead t.mem a ≠ memRead s.mem a →
    ∃ cy, s.cycle = some cy ∧ cy.dir = .write ∧ cy.addr = a ∧ memRead t.mem a = cy.data

/-! ## Arrivals -/

/-- The rows of the Status Block are arrivals: each does what ACCESS_ARRIVAL does with its port, direction and address (R89, R125,
R129 to R131, R136, R166; that the rows are arrivals is the model's reading, log 8). -/
def Obligations.StatusRowsAreArrivals : Prop :=
  ∀ (s : State) (p : Port) (v : Word),
    exec (.alertMaskWrite v) s = exec (.accessArrival .a false true 0x3F712#18 v) s
    ∧ exec (.acknowledge v) s = exec (.accessArrival .a false true 0x3F713#18 v) s
    ∧ exec (.alertHoldoffWrite v) s = exec (.accessArrival .a false true 0x3F714#18 v) s
    ∧ exec (.faultConsumerWrite v) s = exec (.accessArrival .a false true 0x3F716#18 v) s
    ∧ exec (.timeLowRead p) s = exec (.accessArrival p true false 0x3F718#18 0#16) s
    ∧ ∀ w : Fin 16, statusWritable p w = false →
        exec (.statusBlockWriteRefused p w v) s
          = exec (.accessArrival p false true (BitVec.ofNat 18 (0x3F710 + w.val)) v) s

/-- The strobes of a port. At their return to inactive the port drives its DQ lines no longer and an access in flight runs on.
While they are held low no other access arrives, nor does one at strobes that assert while an access is in flight. While RESET_N
is low the first access offered is recorded with its direction, address and value, and no later one (R166, R167, R173). That an
ACCESS_ARRIVAL with neither strobe low is their return to inactive is the model's reading (DESIGN CHOICE, log 10), and that the
port of a part without supply takes nothing is its choice (DESIGN CHOICE, log 18). -/
def Obligations.PortsTakeOneAccessAtATime : Prop :=
  ∀ (s : State) (p : Port) (oe we : Bool) (addr : Addr) (v : Word),
    let asserted := s.setPort p { s.port p with strobes := true }
    (oe = false → we = false → s.pins.powered = true →
      exec (.accessArrival p oe we addr v) s = .next (s.setPort p { s.port p with strobes := false, driven := none }))
    ∧ (s.pins.powered = false → exec (.accessArrival p oe we addr v) s = .next s)
    ∧ ((oe || we) = true → (s.port p).strobes = true → exec (.accessArrival p oe we addr v) s = .next s)
    ∧ (s.running = true → (oe || we) = true → (s.port p).strobes = false → (s.port p).access.isSome = true →
        exec (.accessArrival p oe we addr v) s = .next asserted)
    ∧ (s.pins.powered = true → s.pins.resetTaken = true → (oe || we) = true → (s.port p).strobes = false →
        exec (.accessArrival p oe we addr v) s =
          if (s.port p).recorded.isSome then .next asserted
          else .next (s.setPort p
            { s.port p with strobes := true, recorded := some { dir := dirOf we, addr := addr, value := v } }))

/-- In PFAIL every arrival is ended at once: a read drives FFFFH, a write nothing. A port A write of 0001H or 0002H to 3F001H
is also a BUSY fault: it takes a number and is lost, so that LOAD and OVERFLOW become pending (R158, R162, R133). -/
def Obligations.PfailEndsEveryArrival : Prop :=
  ∀ (s : State) (p : Port) (oe we : Bool) (addr : Addr) (v : Word),
    s.portReady p → s.part = .pfail → (oe || we) = true →
    exec (.accessArrival p oe we addr v) s = .next
      (let t := s.answered p (if we then none else some 0xFFFF#16)
       if p = .a ∧ we = true ∧ addr = 0x3F001#18 ∧ (v = 1#16 ∨ v = 2#16) then
         { t with
           log := { s.log with nextSeq := s.log.nextSeq + 1 }
           alert := { s.alert with pending := s.alert.pending ||| 0xC0#8, asserted := false } }
       else t)

/-- In LOADING every access but a Status Block read waits with cause LOAD, as does an access to a live region's word in
DRAINING (R9, R168). When the wait's state ends, an access that waits alone is classed against the state as it stands, keeping its
timer, limit and place of arrival; of two either may be first; with none waiting nothing changes (R154). -/
def Obligations.AccessesWaitOutALoadAndAreTakenAfresh : Prop :=
  (∀ (s : State) (p : Port) (oe we : Bool) (addr : Addr) (v : Word),
    s.portReady p → (oe || we) = true →
    (s.part = .loading ∧ (we = true ∨ ¬ (0x3F710 ≤ addr.toNat ∧ addr.toNat < 0x3F720))
      ∨ s.part = .draining ∧ addr.toNat < 0x3F000 ∧ (s.regionAt addr).isSome = true) →
    exec (.accessArrival p oe we addr v) s = .next (s.waitsAt p (dirOf we) addr v .load .unclassed))
  ∧ ∀ s : State,
    (s.waitsOnLoad .a = false → s.waitsOnLoad .b = false → s.releaseLoad = s)
    ∧ (∀ p a, (s.port p).access = some a → a.phase = .held .load → s.waitsOnLoad p.other = false →
        s.releaseLoad = s.dispatch p a)
    ∧ (∀ a b, s.portA.access = some a → a.phase = .held .load → s.portB.access = some b → b.phase = .held .load →
        let t : State := { s with freeIndex := s.freeIndex + 1 }
        s.releaseLoad = (t.dispatch .a a).takeAfresh .b ∨ s.releaseLoad = (t.dispatch .b b).takeAfresh .a)

/-- Plain memory, and every Control Area access that the protection lets through, waits for its grant with cause ARBITER
(R168, R169, R137, R138). -/
def Obligations.PermittedAccessesClaimTheMemoryPort : Prop :=
  ∀ (s : State) (p : Port) (oe we : Bool) (addr : Addr) (v : Word),
    s.portReady p → (oe || we) = true →
    ¬ (0x3F710 ≤ addr.toNat ∧ addr.toNat < 0x3F720) →
    (s.part = .bypass
      ∨ (s.part = .active ∨ s.part = .draining) ∧ addr.toNat < 0x3F000 ∧ s.regionAt addr = none
      ∨ (s.part = .active ∨ s.part = .draining) ∧ 0x3F000 ≤ addr.toNat
          ∧ (we = false ∨ 0x3F710 ≤ addr.toNat ∨ addr.toNat < 0x3F610 ∧ p = .a)) →
    exec (.accessArrival p oe we addr v) s = .next (s.waitsAt p (dirOf we) addr v .arbiter .memory)

/-! ## The Status Block -/

/-- A Status Block read outside PFAIL is answered at once with the word's state and has no other effect, but that TIME LOW
latches the high half of the Time Count for the reading port (R135, R89, R90, R18, R43, R63, R108, R119, R150, Table 8-11).
TIME_LOW_READ is that read. -/
def Obligations.StatusBlockReadAnswersAtOnce : Prop :=
  ∀ (s : State) (p : Port) (w : Fin 16) (v : Word), s.portReady p → s.part ≠ .pfail →
    let value : Word :=
      [ (match s.part with
          | .bypass => 0#16
          | .loading => 1#16
          | .active => 2#16
          | .draining => 3#16
          | .pfail => 0xFFFF#16)
      , BitVec.ofNat 16 (s.ldr.result.code * 256 + s.ldr.result.index)
      , s.alert.mask.setWidth 16, s.alert.pending.setWidth 16, s.alert.n.setWidth 16
      , s.log.producer.setWidth 16, s.log.consumer.setWidth 16, s.log.nextSeq
      , s.time.extractLsb' 0 16, (s.port p).latch
      , BitVec.ofNat 16 (s.slots.toList.countP fun x => x.state == .free)
      , BitVec.ofNat 16 s.commitQueue.length
      , BitVec.ofNat 16 s.sessionsA.length, BitVec.ofNat 16 s.sessionsB.length
      , BitVec.ofNat 16 s.diagQueue.length, s.ldr.liveCheck ].getD w.val 0#16
    exec (.accessArrival p true false (BitVec.ofNat 18 (0x3F710 + w.val)) v) s = .next
        (let t := s.answered p (some value)
         if w = 8 then t.setPort p { t.port p with latch := s.time.extractLsb' 16 16 } else t)
    ∧ exec (.timeLowRead p) s = .next
        (({ s with arrivals := s.arrivals + 1 } : State).setPort p
          { s.port p with
            access := none, latch := s.time.extractLsb' 16 16, strobes := true, driven := some (s.time.extractLsb' 0 16) })

/-- The alert unit's commands. ALERT_MASK_WRITE sets the mask set from bits 7 to 0 (R129); ACKNOWLEDGE clears the named causes and
starts the holdoff for n × 64 µs, or stops it when n is 0 (R130); HOLDOFF_EXPIRY stops the holdoff; after each the line is
evaluated again (R127). ALERT_HOLDOFF_WRITE sets n from 0 to 255 and leaves a running holdoff; a greater value is refused with
PROTECT (R131). Nothing else changes. A holdoff that does not run, or whose count is not reached, or with REFCLK stopped, does not
expire (R88, R180); that HOLDOFF_EXPIRY then changes nothing, as in a reset or without the supply, is the model's choice (DESIGN
CHOICE, log 1). -/
def Obligations.AlertCommandsSetTheAlertUnit : Prop :=
  (∀ (s : State) (v : Word), s.portReady .a → s.part ≠ .loading → s.part ≠ .pfail →
    exec (.alertMaskWrite v) s = .next
      { s.answered .a none with
        alert :=
          { s.alert with
            mask := v.extractLsb' 0 8
            asserted := lineFor s.part s.alert.pending (v.extractLsb' 0 8) s.alert.holdoff.isSome } }
    ∧ exec (.acknowledge v) s = .next
      { s.answered .a none with
        alert :=
          { s.alert with
            pending := s.alert.pending &&& ~~~(v.extractLsb' 0 8)
            holdoff :=
              if s.alert.n = 0#8 then none else some (s.time + BitVec.ofNat 32 (s.alert.n.toNat * 64))
            asserted :=
              lineFor s.part (s.alert.pending &&& ~~~(v.extractLsb' 0 8)) s.alert.mask (s.alert.n ≠ 0#8) } }
    ∧ exec (.alertHoldoffWrite v) s = .next
      (if v.toNat ≤ 255 then { s.answered .a none with alert := { s.alert with n := v.extractLsb' 0 8 } }
       else (s.answered .a none).raise (.protect .a 0x3F714#18 v)))
  ∧ ∀ s : State,
    (s.running = true → s.pins.refclk = true → s.alert.holdoff = some s.time →
      exec .holdoffExpiry s = .next
        { s with
          alert :=
            { s.alert with holdoff := none, asserted := lineFor s.part s.alert.pending s.alert.mask false } })
    ∧ (s.running = false ∨ s.pins.refclk = false ∨ s.alert.holdoff ≠ some s.time → exec .holdoffExpiry s = .next s)

/-- FAULT_CONSUMER_WRITE sets C to a value that lies in ring order from C up to P, so that the occupancy falls to (P − v) modulo
64; any other value, and any write of the word by port B, is refused with PROTECT, carrying port, address and value, and leaves
C. The write is answered at once and changes nothing else (R125). -/
def Obligations.FaultConsumerWriteConsumes : Prop :=
  ∀ (s : State) (v : Word), s.part ≠ .loading → s.part ≠ .pfail →
    (s.portReady .a →
      exec (.faultConsumerWrite v) s = .next
        (if v.toNat ≤ 63 ∧ (s.log.producer.toNat + 64 - v.toNat) % 64
              ≤ (s.log.producer.toNat + 64 - s.log.consumer.toNat) % 64 then
           { s.answered .a none with log := { s.log with consumer := v.extractLsb' 0 6 } }
         else (s.answered .a none).raise (.protect .a 0x3F716#18 v)))
    ∧ (s.portReady .b →
      exec (.statusBlockWriteRefused .b 6 v) s = .next ((s.answered .b none).raise (.protect .b 0x3F716#18 v)))

/-- A refused write is answered at once with no effect but its PROTECT fault, which carries port, address and value. Refused are
STATUS_BLOCK_WRITE_REFUSED, port A's writes to twelve of the words and port B's to all sixteen (R136); in ACTIVE and DRAINING
every host write to the Fault Log and port B's to the Table Header, Region Table and Condition Pool (R138); and in ACTIVE the
reader's writes to any word of a region (R8). -/
def Obligations.RefusedWritesOnlyRaiseProtect : Prop :=
  ∀ (s : State) (p : Port) (oe : Bool) (addr : Addr) (v : Word), s.portReady p →
    (∀ w : Fin 16, s.part ≠ .loading → s.part ≠ .pfail → (p = .b ∨ w ∉ ([2, 3, 4, 6] : List (Fin 16))) →
      exec (.statusBlockWriteRefused p w v) s = .next
        ((s.answered p none).raise (.protect p (BitVec.ofNat 18 (0x3F710 + w.val)) v)))
    ∧ ((s.part = .active ∨ s.part = .draining) →
        (0x3F610 ≤ addr.toNat ∧ addr.toNat < 0x3F710
          ∨ 0x3F000 ≤ addr.toNat ∧ addr.toNat < 0x3F610 ∧ p = .b) →
        exec (.accessArrival p oe true addr v) s = .next ((s.answered p none).raise (.protect p addr v)))
    ∧ ∀ r x, s.accessesRegion p addr r x → x.entry.writer = p.other →
        exec (.accessArrival p oe true addr v) s = .next ((s.answered p none).raise (.protect p addr v))

/-- Fault detection: the fault takes the next sequence number; it is logged, with the Time Count, when the ring and the record
queue have room and the part is not in PFAIL, else lost with OVERFLOW; its cause becomes pending, STALE at bit 0, DIAG 1,
PROTECT 2, WAIT 3, STAGE 4, TORN 5, LOAD 6, OVERFLOW 7, and the line is evaluated again; nothing else changes (R119, R121, R128,
R133, Table 8-11). -/
def Obligations.FaultDetectionNumbersLogsAndAlerts : Prop :=
  ∀ (s : State) (d : FaultDetail),
    let logged := s.part ≠ .pfail ∧ s.log.occupancy + s.log.recordCount < 32 ∧ s.log.recordCount < 8
    let f : FaultRecord := { seq := s.log.nextSeq, time := s.time, detail := d }
    let cause : BitVec 8 := match d with
      | .stale .. => 0x01#8
      | .diag .. => 0x02#8
      | .protect .. => 0x04#8
      | .wait .. => 0x08#8
      | .stage .. => 0x10#8
      | .torn .. => 0x20#8
      | .load .. => 0x40#8
    let causes := s.alert.pending ||| cause
    (logged →
      ∃ queue hand, s.raise d =
          { s with
            log := { s.log with nextSeq := s.log.nextSeq + 1, queue := queue, inHand := hand }
            alert :=
              { s.alert with
                pending := causes, asserted := lineFor s.part causes s.alert.mask s.alert.holdoff.isSome } }
        ∧ (s.raise d).log.recordCount = s.log.recordCount + 1
        ∧ (s.log.inHand.isSome = true → queue = s.log.queue ++ [.record f] ∧ hand = s.log.inHand)
        ∧ (s.log.inHand = none → s.log.queue = [] →
            queue = [] ∧ hand = some (.record f (s.log.producer.toNat % 32) 0)))
    ∧ (¬ logged →
      s.raise d =
        { s with
          log := { s.log with nextSeq := s.log.nextSeq + 1 }
          alert :=
            { s.alert with
              pending := causes ||| 0x80#8
              asserted := lineFor s.part (causes ||| 0x80#8) s.alert.mask s.alert.holdoff.isSome } })

/-! ## The owner's accesses to a region -/

/-- An owner body write to a region that holds a FILLING slot goes into that slot, where the offset takes the value, every other
offset keeps its own, and the word count rises by one when the offset is new; the write completes at once and changes nothing
else (R21, R17). -/
def Obligations.OwnerBodyWriteGoesIntoTheFillingSlot : Prop :=
  ∀ (s : State) (p : Port) (oe : Bool) (addr : Addr) (v : Word) (r : Fin 64) (x : Region) (k : Fin 12),
    s.accessesRegion p addr r x → x.entry.writer = p → addr.toNat ≠ x.entry.base.toNat → s.fillingLink r = some k →
    let off := addr.toNat - x.entry.base.toNat
    ∃ ws, exec (.accessArrival p oe true addr v) s =
        .next { s.answered p none with slots := s.slots.set k { s.slots[k] with words := ws } }
      ∧ (∀ o, cellsGet ws o = if o = off then some v else cellsGet s.slots[k].words o)
      ∧ (cellsRising s.slots[k].words = true → cellsRising ws = true
          ∧ ws.length = s.slots[k].words.length + (if (cellsGet s.slots[k].words off).isSome then 0 else 1))

/-- An owner body write to a region with no FILLING slot is given the lowest-numbered FREE slot, as FILLING with that one word, and
completes at once. When the region holds S+C or no slot is FREE it waits at the tail of the list of waiting writes, with cause
COMMIT while S+C holds, else SLOT; a seal with nothing staged and no FREE slot waits there with cause SLOT. Nothing else changes
(R22, R23, R32). -/
def Obligations.OwnerWriteTakesASlotOrWaits : Prop :=
  ∀ (s : State) (p : Port) (oe : Bool) (addr : Addr) (v : Word) (r : Fin 64) (x : Region),
    s.accessesRegion p addr r x → x.entry.writer = p → s.fillingLink r = none →
    (∀ e ∈ s.waiting, e.order ≤ s.arrivals) →
    let off := addr.toNat - x.entry.base.toNat
    let full := ∀ j : Fin 12, s.slots[j].state ≠ .free
    let both := (s.sealedLink r).isSome = true ∧ (s.committingLink r).isSome = true
    (addr.toNat ≠ x.entry.base.toNat → ¬ both →
      ∀ k : Fin 12, s.slots[k].state = .free → (∀ j : Fin 12, j < k → s.slots[j].state ≠ .free) →
        exec (.accessArrival p oe true addr v) s = .next
          { s.answered p none with
            slots := s.slots.set k { state := .filling, region := some r, words := [(off, v)] } })
    ∧ (addr.toNat ≠ x.entry.base.toNat → both ∨ full →
      exec (.accessArrival p oe true addr v) s = .next
        { s.waitsAt p .write addr v (if both then .commit else .slot) .ownerWrite with
          waiting := s.waiting ++ [{ port := p, region := r, ask := .body off, value := v, order := s.arrivals }] })
    ∧ (addr.toNat = x.entry.base.toNat → s.sealedLink r = none → full →
      exec (.accessArrival p oe true addr v) s = .next
        { s.waitsAt p .write addr v .slot .ownerWrite with
          waiting := s.waiting ++ [{ port := p, region := r, ask := .seal, value := 0#16, order := s.arrivals }] })

/-- A seal on combination F or F+C makes the FILLING slot SEALED with its words; a seal on none or C takes the lowest-numbered
FREE slot as SEALED with no words. The slot joins the tail of the Commit Queue, the hold timer starts when the session is OPEN
and the hold limit is above 0, and nothing else changes (R30, R32, R35, R62, R66). -/
def Obligations.SealMakesASealedSlot : Prop :=
  ∀ (s : State) (p : Port) (oe : Bool) (addr : Addr) (v : Word) (r : Fin 64) (x : Region) (k : Fin 12),
    s.accessesRegion p addr r x → x.entry.writer = p → addr.toNat = x.entry.base.toNat → s.sealedLink r = none →
    (s.fillingLink r = some k
      ∨ s.fillingLink r = none ∧ s.slots[k].state = .free ∧ ∀ j : Fin 12, j < k → s.slots[j].state ≠ .free) →
    let ws := if (s.fillingLink r).isSome then s.slots[k].words else []
    exec (.accessArrival p oe true addr v) s = .next
      (({ s.answered p none with
          slots := s.slots.set k { state := .sealed, region := some r, words := ws }
          commitQueue := s.commitQueue ++ [k] } : State).withRegion r
        { x with holdTimer := x.holdWhileSealed (sessionIn (s.sessions p.other) r) s.time })

/-- A seal on combination F+S merges the FILLING slot into the SEALED slot, where the newer value wins and the word count becomes
that of the union of the two sets of offsets, and frees the FILLING slot, which then serves the waiting writes; the Commit Queue and
the hold timer stay as they are (R31, R24). -/
def Obligations.SealCoalescesIntoTheSealedSlot : Prop :=
  ∀ (s : State) (p : Port) (oe : Bool) (addr : Addr) (v : Word) (r : Fin 64) (x : Region) (f k : Fin 12),
    s.accessesRegion p addr r x → x.entry.writer = p → addr.toNat = x.entry.base.toNat →
    s.fillingLink r = some f → s.sealedLink r = some k → cellsRising s.slots[f].words = true →
    ∃ ws, exec (.accessArrival p oe true addr v) s = .next
        ({ s.answered p none with
            slots := (s.slots.set k { s.slots[k] with words := ws }).set f Slot.empty } : State).serveWaiting
      ∧ (∀ o, cellsGet ws o = (cellsGet s.slots[f].words o).or (cellsGet s.slots[k].words o))
      ∧ (cellsRising s.slots[k].words = true → cellsRising ws = true
          ∧ ws.length = s.slots[k].words.length
              + s.slots[f].words.countP fun c => (cellsGet s.slots[k].words c.1).isNone)

/-- A seal on combination S or S+C is absorbed: it completes at once and changes nothing (R33). -/
def Obligations.AbsorbedSealChangesNothing : Prop :=
  ∀ (s : State) (p : Port) (oe : Bool) (addr : Addr) (v : Word) (r : Fin 64) (x : Region) (k : Fin 12),
    s.accessesRegion p addr r x → x.entry.writer = p → addr.toNat = x.entry.base.toNat →
    s.fillingLink r = none → s.sealedLink r = some k →
    exec (.accessArrival p oe true addr v) s = .next (s.answered p none)

/-- Serving the list of waiting writes. A body write whose region holds S+C waits on with cause COMMIT, and does not hold back a
later entry that is eligible; an eligible entry with no FREE slot waits on with cause SLOT. With a FREE slot the entry takes the
lowest-numbered one, leaves the list and completes: a body write as FILLING with its word, a seal as SEALED with no words at the
tail of the Commit Queue, where the hold timer starts when the session is OPEN. Of two eligible entries the one that arrived
first takes the only FREE slot. Of two entries in general, body writes or seals with any number of FREE slots, the first is served
and then the second on the state this leaves; with no entry nothing changes (R23, R24, R32, R62, R66). -/
def Obligations.WaitingWritesAreServedInOrderOfArrival : Prop :=
  ∀ (s : State) (e d : WaitEntry) (off o : Nat) (k : Fin 12),
    let waits := fun (t : State) (q : Port) (c : WaitCause) =>
      t.setPort q
        { s.port q with access := (s.port q).access.map fun a => { a with phase := .held c, cls := .ownerWrite } }
    let completes := fun (t : State) => t.setPort e.port { s.port e.port with access := none, driven := none }
    let filled := s.slots.set k { state := .filling, region := some e.region, words := [(off, e.value)] }
    (s.waiting = [] → s.serveWaiting = s)
    ∧ (s.waiting = [e] → e.ask = .body off → s.holdsSealedAndCommitting e.region = true →
      s.serveWaiting = waits s e.port .commit)
    ∧ (s.waiting = [e] → e.ask = .seal ∨ e.ask = .body off ∧ s.holdsSealedAndCommitting e.region = false →
        s.freeSlot = none → s.serveWaiting = waits s e.port .slot)
    ∧ (s.waiting = [e] → e.ask = .seal → s.fillingLink e.region = none → s.sealedLink e.region = none →
        s.freeSlot = some k → ∀ x, s.region? e.region = some x →
        s.serveWaiting = completes
          (({ s with
              waiting := []
              slots := s.slots.set k { state := .sealed, region := some e.region, words := [] }
              commitQueue := s.commitQueue ++ [k] } : State).withRegion e.region
            { x with
              holdTimer := x.holdWhileSealed (sessionIn (s.sessions x.entry.writer.other) e.region) s.time }))
    ∧ (e.ask = .body off → s.holdsSealedAndCommitting e.region = false → s.fillingLink e.region = none →
        s.freeSlot = some k →
        (s.waiting = [e] → s.serveWaiting = completes { s with waiting := [], slots := filled })
        ∧ (s.waiting = [e, d] → d.port ≠ e.port → d.ask = .seal →
            (∀ j : Fin 12, j ≠ k → s.slots[j].state ≠ .free) →
            s.serveWaiting = waits (completes { s with waiting := [d], slots := filled }) d.port .slot)
        ∧ (s.waiting = [d, e] → d.port ≠ e.port → d.ask = .body o → s.holdsSealedAndCommitting d.region = true →
            s.serveWaiting = waits (completes { s with waiting := [d], slots := filled }) d.port .commit))
    ∧ (s.waiting = [e, d] → d.port ≠ e.port → d.region ≠ e.region →
        (∀ w ∈ [e, d], s.fillingLink w.region = none ∧ (w.ask = .seal → s.sealedLink w.region = none)) →
        let serve := fun (w : WaitEntry) (t : State) =>
          let leaves := fun u : State =>
            ({ u with waiting := t.waiting.erase w } : State).setPort w.port
              { s.port w.port with access := none, driven := none }
          match w.ask, t.freeSlot with
          | .body f, free =>
            if (t.sealedLink w.region).isSome = true ∧ (t.committingLink w.region).isSome = true then waits t w.port .commit
            else
              match free with
              | none => waits t w.port .slot
              | some j => leaves
                { t with slots := t.slots.set j { state := .filling, region := some w.region, words := [(f, w.value)] } }
          | .seal, none => waits t w.port .slot
          | .seal, some j =>
            let u : State :=
              { t with
                slots := t.slots.set j { state := .sealed, region := some w.region, words := [] }
                commitQueue := t.commitQueue ++ [j] }
            leaves (match t.region? w.region with
              | some x => u.withRegion w.region
                { x with
                  holdTimer := x.holdWhileSealed (sessionIn (t.sessions x.entry.writer.other) w.region) t.time }
              | none => u)
        s.serveWaiting = serve d (serve e s))

/-- An owner's header read is answered at once: generation, state and stale as the region's record holds them, result OWNER,
and staged 1 exactly when the region has a FILLING slot; nothing else changes (R13, R15, Tables 1-5 and 8-9). -/
def Obligations.OwnerHeaderReadIsComposed : Prop :=
  ∀ (s : State) (p : Port) (addr : Addr) (v : Word) (r : Fin 64) (x : Region),
    s.accessesRegion p addr r x → x.entry.writer = p → addr.toNat = x.entry.base.toNat →
    ∃ w : Word, exec (.accessArrival p true false addr v) s = .next (s.answered p (some w))
      ∧ w.extractLsb' 6 10 = x.gen
      ∧ w.extractLsb' 4 2 = (match x.header with
          | .clean => 0b00#2
          | .committing => 0b01#2
          | .torn => 0b10#2)
      ∧ w.getLsbD 3 = x.stale ∧ w.extractLsb' 1 2 = 0b00#2 ∧ w.getLsbD 0 = (s.fillingLink r).isSome
      ∧ w ≠ 0xFFFF#16

/-- An owner body read is answered at once from the first of the FILLING, SEALED and COMMITTING slots that holds the offset; when
none does it waits for its grant at the memory port with cause ARBITER; nothing else changes (R27). -/
def Obligations.OwnerBodyReadTakesTheNewestValue : Prop :=
  ∀ (s : State) (p : Port) (addr : Addr) (v : Word) (r : Fin 64) (x : Region),
    s.accessesRegion p addr r x → x.entry.writer = p → addr.toNat ≠ x.entry.base.toNat →
    let held := fun (link : Option (Fin 12)) =>
      link.bind fun k => cellsGet s.slots[k].words (addr.toNat - x.entry.base.toNat)
    exec (.accessArrival p true false addr v) s = .next
      (match held (s.fillingLink r), held (s.sealedLink r), held (s.committingLink r) with
        | some w, _, _ => s.answered p (some w)
        | none, some w, _ => s.answered p (some w)
        | none, none, some w => s.answered p (some w)
        | none, none, none => s.waitsAt p .read addr v .arbiter .memory)

/-! ## The reader's accesses to a region -/

/-- A reader header read that finds no entry for its region opens a session: a full table gives up its oldest entry, the new
OPEN entry is the youngest, the read is answered with result OPEN, and the region's hold timer starts when it holds a SEALED
slot and has a hold limit; the evicted region's timer stops, and no other region nor the condition pool changes (R44 to R46, R66,
R68). -/
def Obligations.ReaderHeaderReadOpensASession : Prop :=
  ∀ (s : State) (p : Port) (addr : Addr) (v : Word) (r : Fin 64) (x : Region),
    s.accessesRegion p addr r x → x.entry.writer = p.other → addr.toNat = x.entry.base.toNat →
    x.header ≠ .committing → s.sessionsSound → sessionIn (s.sessions p) r = none →
    (∀ e ∈ s.sessions p, ∃ y, s.region? e.region = some y ∧ y.entry.writer = p.other) →
    ∃ t w, exec (.accessArrival p true false addr v) s = .next t
      ∧ (∃ pa pb l sa sb, t =
          { s with portA := pa, portB := pb, live := l, sessionsA := sa, sessionsB := sb, arrivals := s.arrivals + 1 })
      ∧ t.port p = { s.port p with access := none, strobes := true, driven := some w }
      ∧ t.port p.other = s.port p.other
      ∧ w.extractLsb' 6 10 = x.gen ∧ w.getLsbD 3 = x.stale ∧ w.extractLsb' 1 2 = 0b01#2 ∧ w.getLsbD 0 = false
      ∧ w.extractLsb' 4 2 = (if x.header = .torn then 0b10#2 else 0b00#2)
      ∧ t.sessions p =
          (if 8 ≤ (s.sessions p).length then (s.sessions p).tail else s.sessions p) ++ [{ region := r, state := .open }]
      ∧ t.sessions p.other = s.sessions p.other
      ∧ t.live.map Live.conds = s.live.map Live.conds
      ∧ t.region? r = some
          { x with
            holdTimer :=
              if (s.sealedLink r).isSome then
                x.holdWhileSealed (some { region := r, state := .open }) s.time
              else none }
      ∧ ∀ q, q ≠ r →
          t.region? q =
            if 8 ≤ (s.sessions p).length ∧ (s.sessions p).head?.map Session.region = some q then
              (s.region? q).map fun y => { y with holdTimer := none }
            else s.region? q

/-- A reader header read that finds an entry for its region closes the session: INTACT when the entry is OPEN and the region is
not TORN, else BROKEN; the entry leaves the table, the younger ones move down, and the region's hold timer stops (R47, R53,
R67). -/
def Obligations.ReaderHeaderReadClosesTheSession : Prop :=
  ∀ (s : State) (p : Port) (addr : Addr) (v : Word) (r : Fin 64) (x : Region) (e : Session),
    s.accessesRegion p addr r x → x.entry.writer = p.other → addr.toNat = x.entry.base.toNat →
    x.header ≠ .committing → s.sessionsSound → sessionIn (s.sessions p) r = some e →
    ∃ w : Word, exec (.accessArrival p true false addr v) s = .next
        (((s.answered p (some w)).setSessions p ((s.sessions p).erase e)).withRegion r { x with holdTimer := none })
      ∧ w.extractLsb' 6 10 = x.gen ∧ w.getLsbD 3 = x.stale ∧ w.getLsbD 0 = false
      ∧ w.extractLsb' 4 2 = (if x.header = .torn then 0b10#2 else 0b00#2)
      ∧ w.extractLsb' 1 2 = (if e.state = .open ∧ x.header ≠ .torn then 0b10#2 else 0b11#2)

/-- While the region is COMMITTING the reader's header and body reads wait with cause COMMIT; else its body reads wait for their
grant with cause ARBITER; neither touches anything else (R49, R55). -/
def Obligations.ReaderReadsWaitOutACommit : Prop :=
  ∀ (s : State) (p : Port) (addr : Addr) (v : Word) (r : Fin 64) (x : Region),
    s.accessesRegion p addr r x → x.entry.writer = p.other →
    (addr.toNat ≠ x.entry.base.toNat →
      exec (.accessArrival p true false addr v) s = .next
        (s.waitsAt p .read addr v (if x.header = .committing then .commit else .arbiter) (.readerBody r)))
    ∧ (addr.toNat = x.entry.base.toNat → x.header = .committing →
      exec (.accessArrival p true false addr v) s = .next (s.waitsAt p .read addr v .commit (.readerHeader r)))

/-! ## Expiries -/

/-- HOLD_TIMER_EXPIRY: the region's session entry becomes BROKEN in its reader's table, the timer stops, and nothing else
changes (R69, R51). A timer that is stopped, or whose count is not reached, or with REFCLK stopped, does not expire (R88, R180);
that the command then changes nothing, as where no region is live, in a reset or without the supply, is the model's choice (DESIGN
CHOICE, log 1). -/
def Obligations.HoldTimerExpiryBreaksTheSession : Prop :=
  ∀ (s : State) (r : Fin 64),
    (∀ x, s.running = true → s.pins.refclk = true →
      (s.part = .active ∨ s.part = .draining) → s.region? r = some x → x.holdTimer = some s.time →
      let p := x.entry.writer.other
      exec (.holdTimerExpiry r) s = .next
        ((s.setSessions p ((s.sessions p).map fun e =>
            if e.region = r then { e with state := .broken } else e)).withRegion r { x with holdTimer := none }))
    ∧ (s.running = false ∨ s.pins.refclk = false ∨ s.part ≠ .active ∧ s.part ≠ .draining
        ∨ (∀ x, s.region? r = some x → x.holdTimer ≠ some s.time) →
      exec (.holdTimerExpiry r) s = .next s)

/-- DEADLINE_EXPIRY: stale is set, the timer is disarmed, a STALE fault carries index, tag and period, and in ACTIVE an IDLE
region with conditions joins the tail of the Diagnosis Queue; nothing else changes (R92, R95, R107). A timer that is not armed, or
whose count is not reached, or with REFCLK stopped, does not expire (R88, R180); that the command then changes nothing, as where no
region is live, in a reset or without the supply, is the model's choice (DESIGN CHOICE, log 1). -/
def Obligations.DeadlineExpiryMarksStaleAndRequestsADiagnosis : Prop :=
  ∀ (s : State) (r : Fin 64),
    (∀ x, s.running = true → s.pins.refclk = true →
      (s.part = .active ∨ s.part = .draining) → s.region? r = some x → x.deadline = some s.time →
      let t := (s.withRegion r { x with stale := true, deadline := none }).raise (.stale r x.entry.tag x.entry.period)
      exec (.deadlineExpiry r) s = .next
        (if s.part = .active ∧ 0 < x.entry.condCount ∧ r ∉ s.diagQueue ∧ (∀ c, s.scan = some c → c.region ≠ r) then
          { t with diagQueue := s.diagQueue ++ [r] }
        else t))
    ∧ (s.running = false ∨ s.pins.refclk = false ∨ s.part ≠ .active ∧ s.part ≠ .draining
        ∨ (∀ x, s.region? r = some x → x.deadline ≠ some s.time) →
      exec (.deadlineExpiry r) s = .next s)

/-- WAIT_LIMIT_EXPIRY: a held access is ended, a read with FFFFH while its strobes are held; it leaves the list of waiting writes;
a WAIT fault carries port, address, direction and the cause that holds; nothing else changes (R171, R25, R57, R167). That a read
whose strobes are lifted at that event drives nothing is the model's reading (log 10). The timer of a port with no access, of a
GRANTED access, or whose count is not reached, or with REFCLK stopped, does not expire (R88, R171, R180); that the command then
changes nothing, as in a reset or without the supply, is the model's choice (DESIGN CHOICE, log 1). -/
def Obligations.WaitLimitExpiryEndsTheAccess : Prop :=
  ∀ (s : State) (p : Port),
    (∀ a c, s.running = true → s.pins.refclk = true →
      (s.port p).access = some a →
      a.timer = some s.time → a.phase = .held c →
      exec (.waitLimitExpiry p) s = .next
        ((({ s with waiting := s.waiting.filter fun e => e.port ≠ p } : State).setPort p
            { s.port p with
              access := none
              driven := match a.dir with
                | .read => if (s.port p).strobes then some 0xFFFF#16 else none
                | .write => none }).raise (.wait p a.addr a.dir c)))
    ∧ (s.running = false ∨ s.pins.refclk = false
        ∨ (∀ a, (s.port p).access = some a → a.timer ≠ some s.time ∨ a.phase = .granted) →
      exec (.waitLimitExpiry p) s = .next s)

/-! ## The Memory Arbiter -/

/-- ARBITER_GRANT on an idle memory port: the first claimant waiting in the order A, B, Internal, A from the pointer is granted
and the pointer moves to the one after it; the access of a granted port is GRANTED and its timer stops (R174, R169, R171). That the
command changes nothing where there is no grant to take, with no claim waiting or while a cycle is carried, is the model's choice
(DESIGN CHOICE, log 1). -/
def Obligations.GrantGoesToTheFirstClaimantInRotation : Prop :=
  ∀ (s : State) (first second third : Claimant), s.running = true →
    (s.pointer, first, second, third) ∈ ([(.a, .a, .b, .internal), (.b, .b, .internal, .a), (.internal, .internal, .a, .b)]
      : List (Claimant × Claimant × Claimant × Claimant)) →
    let granted := fun (c : Cycle) (after : Claimant) =>
      let t : State := { s with cycle := some c, pointer := after }
      (Host.Outcome.next (match c.req with
        | .port q =>
          t.setPort q
            { s.port q with access := (s.port q).access.map fun a => { a with phase := .granted, timer := none } }
        | .commit | .loader | .writer | .diag => t) : Host.Outcome State Fault Refusal)
    (s.cycle.isSome = true → exec .arbiterGrant s = .next s)
    ∧ (s.cycle = none →
      exec .arbiterGrant s =
        match s.claim first, s.claim second, s.claim third with
        | some c, _, _ => granted c second
        | none, some c, _ => granted c third
        | none, none, some c => granted c first
        | none, none, none => .next s)

/-- The internal request: the Commit Engine's write comes first, then the Table Loader's access, the Record Writer's, and the
Diagnosis Engine's. The Loader asks for the read of 3F000H and then of 3F002H at start-up, of 3F000H + n for the shadow's word n,
of the entry's base address in the torn scan, and for the write of 0000H to 3F001H that clears word 1; the Commit Engine for the
write CommitWritesInThreeSteps gives, the Record Writer for the access of its item in hand, a write with that access's value; a
read takes the word memory holds. In PFAIL the Loader, the Diagnosis Engine and the ports ask for nothing. A port claims exactly
while its access waits with cause ARBITER, not with no access, once GRANTED, or with cause SLOT, COMMIT or LOAD; but port A's write
to the period word or the check word of the write-back in hand is held back from the grant of the write-back's first read (R143,
R144, R147, R148, R149, R153, R163, R174, R175, R176, R177, R178). -/
def Obligations.ClaimsFollowTheFixedPriority : Prop :=
  ∀ s : State,
    let writer := s.log.inHand.map InHand.access
    (s.commit.isSome = true →
      s.claim .internal = s.commitRequest ∧ (s.claim .internal).map Cycle.req = some .commit)
    ∧ (s.commit = none → s.part ≠ .pfail → s.ldr.work ≠ .idle → (s.claim .internal).map Cycle.req = some .loader)
    ∧ (s.commit = none → s.part ≠ .pfail →
        let ws := s.ldr.shadow.getD []
        let reads := fun a : Addr => some ({ req := .loader, dir := .read, addr := a, data := memRead s.mem a } : Cycle)
        let clears := some ({ req := .loader, dir := .write, addr := 0x3F001#18, data := 0#16 } : Cycle)
        (s.ldr.work = .startUpFormat → s.claim .internal = reads 0x3F000#18)
        ∧ (∀ format, s.ldr.work = .startUpAutoload format → s.claim .internal = reads 0x3F002#18)
        ∧ (s.ldr.work = .shadowRead → s.claim .internal = reads (BitVec.ofNat 18 (0x3F000 + ws.length)))
        ∧ (∀ i rest found, s.ldr.work = .tornScan i rest found →
            s.claim .internal =
              reads (BitVec.ofNat 18 ((entryWord ws i 1).toNat + 65536 * (entryWord ws i 2).toNat)))
        ∧ (∀ found, s.ldr.work = .clearSuccess found → s.claim .internal = clears)
        ∧ (∀ reason, s.ldr.work = .clearFailure reason → s.claim .internal = clears)
        ∧ (s.ldr.work = .clearUnload → s.claim .internal = clears))
    ∧ (s.commit = none → s.part = .pfail ∨ s.ldr.work = .idle → s.log.inHand.isSome = true →
        (s.claim .internal).map Cycle.req = some .writer
        ∧ s.claim .internal = writer.map fun (dir, addr, value) =>
            { req := .writer, dir := dir, addr := addr
              data := match dir with
                | .read => memRead s.mem addr
                | .write => value })
    ∧ (s.commit = none → s.log.inHand = none → s.part = .pfail → s.claim .internal = none)
    ∧ (s.commit = none → s.part = .active ∨ s.part = .draining → s.ldr.work = .idle → s.log.inHand = none →
        s.claim .internal =
          match s.scan with
          | some c =>
            if c.step = .requested then
              some
                { req := .diag, dir := .read, addr := (s.condition c.position).addr
                  data := memRead s.mem (s.condition c.position).addr }
            else none
          | none => none)
    ∧ (s.commit = none → s.part = .bypass ∨ s.part = .loading → s.ldr.work = .idle → s.log.inHand = none →
        s.claim .internal = none)
    ∧ (s.claim .a = s.portRequest .a ∧ s.claim .b = s.portRequest .b)
    ∧ (s.part = .pfail → s.claim .a = none ∧ s.claim .b = none)
    ∧ (∀ p, (∀ a, (s.port p).access = some a → a.phase ≠ .held .arbiter) → s.portRequest p = none)
    ∧ (∀ p a, s.part ≠ .pfail → (s.port p).access = some a → a.phase = .held .arbiter →
        let heldBack := p = .a ∧ a.dir = .write ∧ ∃ r n done q k,
          s.log.inHand = some (.writeBack r n done q k) ∧ (1 ≤ done ∨ s.cycle.map Cycle.req = some .writer)
            ∧ (a.addr = BitVec.ofNat 18 (0x3F015 + 8 * r.val) ∨ a.addr = 0x3F005#18)
        (heldBack → s.portRequest p = none)
        ∧ (¬ heldBack → s.portRequest p = some
            { req := .port p, dir := a.dir, addr := a.addr
              data := match a.dir with
                | .read => memRead s.mem a.addr
                | .write => a.value }))

/-- MEMORY_CYCLE_COMPLETION of a host's cycle: a write is stored, the memory port is idle, and the access is answered, a read
with the word taken at its grant, driven while the strobes are held; in PFAIL the host was already answered. Nothing else changes
(R176, R167, R158). In PFAIL the completion of a cycle the Table Loader or the Diagnosis Engine had carried does no more than that
either: a read's value is dropped, a clearing write is stored, and the memory port is idle (R116, R161, R163). That a read whose
strobes are lifted at its completion drives nothing (log 10), and that a PFAIL_N level still to be taken is taken before any
completion (DEDUCED, log 13), is the model's reading. -/
def Obligations.HostCycleCompletionAnswersTheHost : Prop :=
  ∀ (s : State) (c : Cycle), s.running = true → s.cycle = some c →
    let stored : State :=
      { s with
        mem := match c.dir with
          | .read => s.mem
          | .write => memWrite s.mem c.addr c.data
        cycle := none }
    (∀ p : Port, s.pins.pfailDue = false → c.req = .port p →
      ¬ (p = .a ∧ c.dir = .write ∧ c.addr = 0x3F001#18 ∧ (c.data = 1#16 ∨ c.data = 2#16)) →
      (s.part = .pfail → exec .memoryCycleCompletion s = .next stored)
      ∧ (s.part ≠ .pfail → exec .memoryCycleCompletion s = .next
          (stored.setPort p
            { s.port p with
              access := none
              driven := match c.dir with
                | .read => if (s.port p).strobes then some c.data else none
                | .write => none })))
    ∧ (s.pins.pfailDue = false → s.part = .pfail → c.req = .loader ∨ c.req = .diag →
        exec .memoryCycleCompletion s = .next stored)
    ∧ (s.pins.pfailDue = true → s.part ≠ .pfail →
        exec .memoryCycleCompletion s = exec .memoryCycleCompletion s.enterPfail)

/-! ## The Commit Engine -/

/-- COMMIT_START: in ACTIVE the oldest slot whose region is not deferring, in DRAINING the head of the queue, becomes COMMITTING
and leaves the Commit Queue; the region becomes COMMITTING with its generation unchanged; its session entry becomes BROKEN; the
engine holds a commit record at step OPENING with the slot's lowest offset; a reader body read of the region that waits for its
grant waits with cause COMMIT instead; a TORN rewrite of the region that waits, or is in hand with its access not granted, is
withdrawn, and then the Record Writer takes its next item; a condition read of a word of the region that is not yet granted
becomes HELD; nothing else changes (R72 to R75, R51, R56, R111). A region defers exactly while it holds a SEALED slot, its hold
limit is above 0 and its reader's session on it is OPEN (R65). No commit starts while one is in progress, in BYPASS, LOADING or
PFAIL, in ACTIVE when every slot of the queue is of a deferring region or the queue is empty, or in DRAINING when it is empty (R64,
R72, R86, R160); that the command then changes nothing, as in a reset or without the supply, is the model's choice (DESIGN CHOICE,
log 1). -/
def Obligations.CommitStartTakesTheOldestSelectableSlot : Prop :=
  (∀ (s : State) (q : Fin 64), s.deferring q = true ↔
    (s.sealedLink q).isSome = true ∧ ∃ y e, s.region? q = some y ∧ 0 < y.entry.hold
      ∧ sessionIn (s.sessions y.entry.writer.other) q = some e ∧ e.state = .open)
  ∧ (∀ s : State,
    s.running = false ∨ s.commit.isSome = true ∨ s.part ≠ .active ∧ s.part ≠ .draining
      ∨ s.part = .active ∧ (∀ j ∈ s.commitQueue, ∃ q, s.slots[j].region = some q ∧ s.deferring q = true)
      ∨ s.part = .draining ∧ s.commitQueue = [] →
    exec .commitStart s = .next s)
  ∧ ∀ (s : State) (pre post : List (Fin 12)) (k : Fin 12) (r : Fin 64) (x : Region), s.running = true →
    s.commit = none → s.commitQueue = pre ++ k :: post → k ∉ pre ++ post →
    s.slots[k].region = some r → s.region? r = some x →
    (s.part = .active ∧ s.deferring r = false
        ∧ (∀ j ∈ pre, ∃ q, s.slots[j].region = some q ∧ s.deferring q = true)
      ∨ s.part = .draining ∧ pre = []) →
    let reader := x.entry.writer.other
    let kept := s.log.queue.filter fun i => match i with
      | .torn b _ => b != x.entry.base
      | .record _ => true
      | .writeBack _ _ => true
    let withdrawn := match s.log.inHand with
      | some (.torn b _) => b == x.entry.base && !s.carries .writer
      | _ => false
    let next := { s.log with queue := kept.tail, inHand := kept.head?.map fun i => i.begin s.log.producer }
    ∃ sa sb pa pb, exec .commitStart s = .next
        (({ s with
            slots := s.slots.set k { s.slots[k] with state := .committing }
            commitQueue := pre ++ post
            commit := some
              { slot := k, region := r, base := x.entry.base, oldGen := x.gen, step := .opening
                next := s.slots[k].words.head?.map Prod.fst }
            sessionsA := sa, sessionsB := sb, portA := pa, portB := pb
            log := if withdrawn then next else { s.log with queue := kept }
            scan := s.scan.map fun c =>
              if c.step = .requested ∧ s.regionCovers r (s.condition c.position).addr = true ∧ s.carries .diag = false then
                { c with step := .held }
              else c } : State).withRegion r { x with header := .committing })
      ∧ (let table := fun q : Port => match q with
          | .a => sa
          | .b => sb
        table reader = ((s.sessions reader).map fun e => if e.region = r then { e with state := .broken } else e)
        ∧ table reader.other = s.sessions reader.other)
      ∧ (let record := fun q : Port => match q with
          | .a => pa
          | .b => pb
        record reader =
          { s.port reader with
            access := (s.port reader).access.map fun a =>
              if a.phase = .held .arbiter ∧ a.cls = .readerBody r then { a with phase := .held .commit } else a }
        ∧ record reader.other = s.port reader.other)

/-- The writes of a commit: OPENING writes the old generation with COMMITTING, BODY one word for each offset of the slot in
ascending order, CLOSING the next generation modulo 1024 with CLEAN; at each completion but the last the record moves on to the
next write, and nothing else changes (R76, R11, Table 8-9). -/
def Obligations.CommitWritesInThreeSteps : Prop :=
  ∀ (s : State) (c : CommitRec), s.commit = some c →
    (c.step = .opening →
      s.commitRequest = some { req := .commit, dir := .write, addr := c.base, data := c.oldGen ++ 0b01#2 ++ 0#4 })
    ∧ (∀ off w, c.step = .body → c.next = some off → cellsGet s.slots[c.slot].words off = some w →
        s.commitRequest = some { req := .commit, dir := .write, addr := c.base + BitVec.ofNat 18 off, data := w })
    ∧ (c.step = .closing →
      s.commitRequest = some
        { req := .commit, dir := .write, addr := c.base, data := (c.oldGen + 1) ++ 0b00#2 ++ 0#4 })
    ∧ ∀ cy, s.running = true → s.pins.pfailDue = false → s.cycle = some cy → cy.req = .commit → cy.dir = .write →
        let stored : State := { s with mem := memWrite s.mem cy.addr cy.data, cycle := none }
        (c.step = .opening →
          exec .memoryCycleCompletion s = .next
            { stored with commit := some { c with step := if c.next.isSome then .body else .closing } })
        ∧ (∀ off, c.step = .body → c.next = some off → cellsRising s.slots[c.slot].words = true →
            ∃ c', exec .memoryCycleCompletion s = .next { stored with commit := some c' }
              ∧ ((∀ o ∈ s.slots[c.slot].words.map Prod.fst, o ≤ off) →
                  c' = { c with step := .closing, next := none })
              ∧ (∀ o ∈ s.slots[c.slot].words.map Prod.fst, off < o →
                  ∃ o', c' = { c with next := some o' } ∧ off < o' ∧ o' ≤ o
                    ∧ o' ∈ s.slots[c.slot].words.map Prod.fst))

/-- COMMIT_COMPLETION: the CLOSING write is stored, the region takes the old generation plus one, CLEAN and stale clear, the slot
becomes FREE and the engine IDLE. In PFAIL nothing else changes; else the blocks that wait on the commit are told, which leaves
the region's generation, header state and stale flag, and every other region's (R83 to R86, R160). -/
def Obligations.CommitCompletionAdvancesTheGeneration : Prop :=
  ∀ (s : State) (c : CommitRec) (cy : Cycle) (x : Region), s.running = true → s.pins.pfailDue = false →
    s.commit = some c → c.step = .closing → s.cycle = some cy → cy.req = .commit → cy.dir = .write →
    s.region? c.region = some x →
    let done : State :=
      ({ s with
          mem := memWrite s.mem cy.addr cy.data
          cycle := none
          commit := none
          slots := s.slots.set c.slot Slot.empty } : State).withRegion c.region
        { x with gen := c.oldGen + 1, header := .clean, stale := false }
    (s.part = .pfail → exec .commitCompletion s = .next done)
    ∧ (s.part ≠ .pfail →
        exec .commitCompletion s = .next (done.tellCompletion c.region)
        ∧ (done.tellCompletion c.region).mem = done.mem ∧ (done.tellCompletion c.region).commit = none
        ∧ (done.tellCompletion c.region).alert = s.alert
        ∧ ∀ q y, done.region? q = some y → ∃ z, (done.tellCompletion c.region).region? q = some z
            ∧ z.entry = y.entry ∧ z.gen = y.gen ∧ z.header = y.header ∧ z.stale = y.stale)

/-- What a completion tells the other blocks, once the waiting writes are served (the state u). The deadline timer is armed afresh
for its full period in a region that is watched, and disarmed in one that is not, while a learning region gives a sample; the
region's queued diagnosis request is withdrawn; a scan of the region is marked recovered, and a HELD read of one of its words is
made (R85, R91, R97, R111, R113, R114). A reader access that waited with cause COMMIT is released: a body read waits for its grant
with cause ARBITER; a header read with a session closes it, INTACT when its entry is OPEN, else BROKEN, and with none opens one,
the oldest of a full table giving way, answered with the new generation and CLEAN. With none waiting nothing else changes (R84, R44
to R47, R49, R54, R55, R66 to R68). That the writes are served before the reader is released (DEDUCED,
log 21), and that a released read whose strobes are lifted then drives nothing (log 10), is the model's reading. -/
def Obligations.CompletionRearmsTheDeadlineAndWithdrawsTheDiagnosis : Prop :=
  ∀ (s : State) (r : Fin 64) (x : Region),
    let u := s.serveWaiting
    u.region? r = some x →
    let p := x.entry.writer.other
    let released := fun (q : Port) (a : Access) =>
      (u.port q).access = some a ∧ a.phase = .held .commit ∧ (a.cls = .readerHeader r ∨ a.cls = .readerBody r)
    let told := fun t : State =>
      ({ t with
          diagQueue := s.diagQueue.filter fun q => q != r
          scan := s.scan.map fun c =>
            { c with
              recovered := c.recovered || c.region == r
              step :=
                if c.step = .held ∧ s.regionCovers r (s.condition c.position).addr = true then .requested
                else c.step } } : State)
    let timed := fun (t : State) (y : Region) =>
      if y.entry.learn then t.deadlineCompletion r
      else t.withRegion r
        { y with
          deadline :=
            if 0 < y.entry.period then some (s.time + BitVec.ofNat 32 (y.entry.period * 1000)) else (none : Option Time) }
    ((∀ q a, ¬ released q a) → s.tellCompletion r = told (timed u x))
    ∧ ∀ a, released p a → (∀ b, ¬ released p.other b) →
      let answered := fun w : Word =>
        u.setPort p { u.port p with access := none, driven := if (u.port p).strobes then some w else none }
      (a.cls = .readerBody r →
        s.tellCompletion r = told
          (timed (u.setPort p { u.port p with access := some { a with phase := .held .arbiter } }) x))
      ∧ (a.cls = .readerHeader r → x.header = .clean →
        ∃ w : Word, w.extractLsb' 6 10 = x.gen ∧ w.extractLsb' 4 2 = 0b00#2 ∧ w.getLsbD 3 = x.stale ∧ w.getLsbD 0 = false
          ∧ (∀ e, sessionIn (s.sessions p) r = some e →
              w.extractLsb' 1 2 = (if e.state = .open then 0b10#2 else 0b11#2)
              ∧ s.tellCompletion r = told
                  (timed
                    (((answered w).setSessions p ((s.sessions p).filter fun f => f.region != r)).withRegion r
                      { x with holdTimer := none })
                    { x with holdTimer := none }))
          ∧ (sessionIn (s.sessions p) r = none → s.sessionsSound →
              (∀ e ∈ s.sessions p, ∃ y, s.region? e.region = some y ∧ y.entry.writer = p.other) →
              let y : Region :=
                { x with
                  holdTimer :=
                    if (u.sealedLink r).isSome then
                      x.holdWhileSealed (some { region := r, state := .open }) s.time
                    else none }
              w.extractLsb' 1 2 = 0b01#2
              ∧ ∃ l, s.tellCompletion r = told
                  (timed
                    { (answered w).setSessions p
                        ((if 8 ≤ (s.sessions p).length then (s.sessions p).tail else s.sessions p)
                          ++ [{ region := r, state := .open }]) with
                      live := l }
                    y)
                ∧ l.map Live.conds = s.live.map Live.conds
                ∧ ∀ q, ({ s with live := l } : State).region? q =
                    if q = r then some y
                    else if 8 ≤ (s.sessions p).length ∧ (s.sessions p).head?.map Session.region = some q then
                      (u.region? q).map fun z => { z with holdTimer := none }
                    else u.region? q))

/-- A learning sample: the first records the time; a later one measures the interval modulo 2^32 in ms rounded up. A longer one
than the longest forms the learned period, the smallest whole number of ms not below longest × (8 + m) ÷ 8 and at most 65535.
When it differs from the last proposed one a write-back of it is handed over: it takes the place of the region's waiting one's
period, else joins the tail of the Record Writer's queue, or is taken in hand when the Record Writer is idle (R97 to R100,
R123). That a write-back in hand counts as begun, so that a later period joins the tail even before its first read is granted, is
the model's reading (DEDUCED, log 19). -/
def Obligations.LearningSampleProposesAPeriod : Prop :=
  ∀ (s : State) (r : Fin 64) (x : Region) (m : Nat), s.region? r = some x → x.entry.learn = true →
    s.ldr.margin = some m → 1 ≤ m → m ≤ 8 →
    (x.lastCommit = none → s.deadlineCompletion r = s.withRegion r { x with lastCommit := some s.time })
    ∧ ∀ last, x.lastCommit = some last →
        ∃ ms, ms * 1000 < (s.time - last).toNat + 1000 ∧ (s.time - last).toNat ≤ ms * 1000
          ∧ (ms ≤ x.longest → s.deadlineCompletion r = s.withRegion r { x with lastCommit := some s.time })
          ∧ (x.longest < ms → ∃ n, n ≤ 65535 ∧ (n < 65535 → ms * (8 + m) ≤ 8 * n) ∧ 8 * n < ms * (8 + m) + 8
              ∧ (n = x.proposed → s.deadlineCompletion r =
                  s.withRegion r { x with lastCommit := some s.time, longest := ms })
              ∧ (n ≠ x.proposed →
                  let handed := fun (queue : List Item) (hand : Option InHand) =>
                    { s.withRegion r { x with lastCommit := some s.time, longest := ms, proposed := n } with
                      log := { s.log with queue := queue, inHand := hand } }
                  let period := BitVec.ofNat 16 n
                  (∀ pre post old, s.log.queue = pre ++ .writeBack r old :: post → (∀ o, .writeBack r o ∉ pre) →
                    s.deadlineCompletion r = handed (pre ++ .writeBack r period :: post) s.log.inHand)
                  ∧ ((∀ o, .writeBack r o ∉ s.log.queue) → s.log.inHand.isSome = true →
                    s.deadlineCompletion r = handed (s.log.queue ++ [.writeBack r period]) s.log.inHand)
                  ∧ (s.log.queue = [] → s.log.inHand = none → s.part ≠ .pfail →
                    s.deadlineCompletion r = handed [] (some (.writeBack r period 0 0#16 0#16)))))

/-! ## The Diagnosis Engine -/

/-- A condition is tested by the observed value AND the mask, compared whole with the expected value, which is not masked; the
entries of the rule's table have their fixed outcome; the fault of an unmet condition carries the whole observed value (R105). -/
def Obligations.ConditionComparesTheMaskedWord : Prop :=
  ∀ (c : Condition) (observed : Word),
    (c.sense = .equal → (c.met observed = true ↔ observed &&& c.mask = c.expected))
    ∧ (c.sense = .differ → (c.met observed = true ↔ observed &&& c.mask ≠ c.expected))
    ∧ (c.expected &&& ~~~c.mask ≠ 0#16 → c.met observed = decide (c.sense = .differ))
    ∧ (c.mask = 0#16 → c.expected = 0#16 → c.met observed = decide (c.sense = .equal))
    ∧ ∀ (s : State) (sc : Scan), s.condition sc.position = c → c.met observed = false →
        s.diagFault sc observed = .diag sc.region sc.tag true sc.position c.addr observed sc.recovered

/-- SCAN_START: the head of the Diagnosis Queue leaves it, and the scan record takes its tag and its list's first position, HELD
when that condition's word lies in a COMMITTING region, else REQUESTED; nothing else changes (R109, R111). No scan starts while
one is in progress, with an empty queue, or in PFAIL or another state in which no region is live (R109, R116); that the command then
changes nothing, as in a reset or without the supply, is the model's choice (DESIGN CHOICE, log 1). -/
def Obligations.ScanStartTakesTheHeadOfTheQueue : Prop :=
  (∀ s : State,
    s.running = false ∨ s.scan.isSome = true ∨ s.diagQueue = [] ∨ s.part ≠ .active ∧ s.part ≠ .draining →
    exec .scanStart s = .next s)
  ∧ ∀ (s : State) (r : Fin 64) (rest : List (Fin 64)) (x : Region), s.running = true →
    (s.part = .active ∨ s.part = .draining) → s.scan = none → s.diagQueue = r :: rest → s.region? r = some x →
    exec .scanStart s = .next
      { s with
        diagQueue := rest
        scan := some
          { region := r, tag := x.entry.tag, position := x.entry.condFirst
            step :=
              if ((s.regionAt (s.condition x.entry.condFirst).addr).bind s.region?).map Region.header = some .committing
              then .held
              else .requested
            recovered := false } }

/-- A condition read completes: met and not the last of the list, the scan takes up the next condition; else the scan ends
(SCAN_END) with one DIAG fault, UNMET with the condition's index, its address and the whole word read, or ALL_MET with zeros
(R112, R117, Table 6-3). -/
def Obligations.ScanEndsAtTheFirstUnmetCondition : Prop :=
  ∀ (s : State) (cy : Cycle) (c : Scan) (x : Region), s.running = true → s.pins.pfailDue = false → s.part ≠ .pfail →
    s.cycle = some cy → cy.req = .diag → cy.dir = .read → s.scan = some c → s.region? c.region = some x →
    let cond := s.condition c.position
    let last := x.entry.condFirst + x.entry.condCount - 1
    let idle : State := { s with cycle := none, scan := none }
    (cond.met cy.data = false →
      exec .scanEnd s = .next
        (idle.raise (.diag c.region c.tag true c.position cond.addr cy.data c.recovered)))
    ∧ (cond.met cy.data = true → last ≤ c.position →
      exec .scanEnd s = .next (idle.raise (.diag c.region c.tag false 0 0#18 0#16 c.recovered)))
    ∧ (cond.met cy.data = true → c.position < last →
      exec .memoryCycleCompletion s = .next
        { s with
          cycle := none
          scan := some
            { c with
              position := c.position + 1
              step :=
                if ((s.regionAt (s.condition (c.position + 1)).addr).bind s.region?).map Region.header
                    = some .committing then .held
                else .requested } })

/-! ## The Record Writer -/

/-- The Record Writer. Word k of a record goes to 3F610H + 8 × index + k, with the words of Table 8-10, at the ring index P
modulo 32 of its beginning; a write-back reads the period word p and the check word k, and writes n and k XOR p XOR n; a TORN
rewrite writes the base with the generation and TORN. Each completion but an item's last moves it on to its next access, a read's
word kept. FAULT_RECORD_END, WRITE_BACK_END and the completion of a TORN rewrite store the last write, advance P for a record
alone, and take the next item, but in PFAIL none; nothing else changes (R101, R118, R122, R123, R133, R147). -/
def Obligations.RecordWriterWritesItsItemsInOrder : Prop :=
  (∀ (f : FaultRecord) (index k : Nat),
    InHand.access (.record f index k) = (.write, BitVec.ofNat 18 (0x3F610 + 8 * index + k), f.word k))
  ∧ (∀ (r : Fin 64) (n p k : Word),
    let period := BitVec.ofNat 18 (0x3F015 + 8 * r.val)
    (InHand.access (.writeBack r n 0 p k)).1 = .read ∧ (InHand.access (.writeBack r n 0 p k)).2.1 = period
    ∧ (InHand.access (.writeBack r n 1 p k)).1 = .read ∧ (InHand.access (.writeBack r n 1 p k)).2.1 = 0x3F005#18
    ∧ InHand.access (.writeBack r n 2 p k) = (.write, period, n)
    ∧ InHand.access (.writeBack r n 3 p k) = (.write, 0x3F005#18, k ^^^ p ^^^ n))
  ∧ (∀ (b : Addr) (g : BitVec 10), InHand.access (.torn b g) = (.write, b, g ++ 0b10#2 ++ 0#4))
  ∧ (∀ (seq : Word) (time : Time) (r : Fin 64) (tag w : Word) (n m : Nat) (yes again : Bool) (p : Port) (d : Dir) (a : Addr)
      (c : WaitCause) (g : BitVec 10),
    let word := fun (f : FaultDetail) (k : Nat) => FaultRecord.word { seq := seq, time := time, detail := f } k
    let rest := fun (f : FaultDetail) => [word f 1, word f 4, word f 5, word f 6, word f 7]
    let low := a.extractLsb' 0 16
    let high := 4 * (a.toNat / 65536)
    let port := match p with
      | .a => 0
      | .b => 32
    let dir := match d with
      | .read => 0
      | .write => 16
    let cause := match c with
      | .slot => 0
      | .commit => 1
      | .load => 2
      | .arbiter => 3
    (∀ f, word f 0 = seq ∧ word f 2 = time.extractLsb' 0 16 ∧ word f 3 = time.extractLsb' 16 16)
    ∧ rest (.stale r tag n) = [BitVec.ofNat 16 (0x1000 + 64 * r.val), tag, BitVec.ofNat 16 n, 0, 0]
    ∧ rest (.diag r tag yes n a w again) =
        [ BitVec.ofNat 16 (0x2000 + 64 * r.val + high + (if yes then 2 else 0) + (if again then 1 else 0)), tag
        , BitVec.ofNat 16 n, low, w ]
    ∧ rest (.protect p a w) = [BitVec.ofNat 16 (0x3000 + port + 16 + high), 0, 0, low, w]
    ∧ rest (.wait p a d c) = [BitVec.ofNat 16 (0x4000 + port + dir + high), 0, BitVec.ofNat 16 cause, low, 0]
    ∧ rest (.stage r tag n) = [BitVec.ofNat 16 (0x5000 + 64 * r.val), tag, BitVec.ofNat 16 n, 0, 0]
    ∧ rest (.torn r tag g) = [BitVec.ofNat 16 (0x6000 + 64 * r.val), tag, g.setWidth 16, 0, 0]
    ∧ rest (.load n m) = [0x7000, 0, BitVec.ofNat 16 (256 * n + m), 0, 0])
  ∧ ∀ (s : State) (cy : Cycle), s.running = true → s.pins.pfailDue = false → s.cycle = some cy → cy.req = .writer →
      let begun := fun (i : Item) (producer : BitVec 6) => match i with
        | .record f => InHand.record f (producer.toNat % 32) 0
        | .writeBack r n => .writeBack r n 0 0#16 0#16
        | .torn base gen => .torn base gen
      let moved := fun (mem : Memory) (hand : InHand) =>
        ({ s with mem := mem, cycle := none, log := { s.log with inHand := some hand } } : State)
      let stored := memWrite s.mem cy.addr cy.data
      let after := fun (producer : BitVec 6) =>
        ({ s with
            mem := stored
            cycle := none
            log :=
              { s.log with
                producer := producer
                queue := if s.part = .pfail then s.log.queue else s.log.queue.tail
                inHand := if s.part = .pfail then none else s.log.queue.head?.map fun i => begun i producer } } : State)
      (cy.dir = .read → ∀ r n p k,
        (s.log.inHand = some (.writeBack r n 0 p k) →
          exec .memoryCycleCompletion s = .next (moved s.mem (.writeBack r n 1 cy.data k)))
        ∧ (s.log.inHand = some (.writeBack r n 1 p k) →
          exec .memoryCycleCompletion s = .next (moved s.mem (.writeBack r n 2 p cy.data))))
      ∧ (cy.dir = .write →
        (∀ f index k, s.log.inHand = some (.record f index k) → k < 7 →
          exec .memoryCycleCompletion s = .next (moved stored (.record f index (k + 1))))
        ∧ (∀ f index, s.log.inHand = some (.record f index 7) →
          exec .faultRecordEnd s = .next (after (s.log.producer + 1)))
        ∧ (∀ r n p k, s.log.inHand = some (.writeBack r n 2 p k) →
          exec .memoryCycleCompletion s = .next (moved stored (.writeBack r n 3 p k)))
        ∧ (∀ r n p k, s.log.inHand = some (.writeBack r n 3 p k) → exec .writeBackEnd s = .next (after s.log.producer))
        ∧ (∀ b g, s.log.inHand = some (.torn b g) →
          exec .memoryCycleCompletion s = .next (after s.log.producer)))

/-! ## Commands, drains and loads -/

/-- LOAD_COMMAND and UNLOAD_COMMAND: the write is stored, port A answered, and the command taken against the part state. In BYPASS
LOAD starts the shadow read with origin BYPASS and UNLOAD does nothing more; in ACTIVE either enters DRAINING; in LOADING,
DRAINING and PFAIL, and when the write waited with cause LOAD, it is a BUSY fault (R141, R142, R143, R144). -/
def Obligations.CommandsActByThePartState : Prop :=
  ∀ (s : State) (cmd : Command) (v : Word), (cmd, v) ∈ [(Command.load, 1#16), (.unload, 2#16)] →
    s.running = true → s.pins.pfailDue = false →
    s.cycle = some { req := .port .a, dir := .write, addr := 0x3F001#18, data := v } →
    let run := exec (match cmd with
      | .load => .loadCommand
      | .unload => .unloadCommand) s
    let written : State := { s with mem := memWrite s.mem 0x3F001#18 v, cycle := none }
    let stored := written.setPort .a { s.portA with access := none, driven := none }
    let waited := ∃ a, s.portA.access = some a ∧ a.waitedLoad = true
    (s.part = .pfail → run = .next (written.raise (.load 11 0)))
    ∧ (s.part = .loading ∨ s.part = .draining ∨ s.part ≠ .pfail ∧ waited → run = .next (stored.raise (.load 11 0)))
    ∧ (s.part = .bypass → ¬ waited →
        (cmd = .load → run = .next
          { stored with
            part := .loading
            ldr := { s.ldr with work := .shadowRead, shadow := some [], origin := some .bypass } })
        ∧ (cmd = .unload → run = .next stored))
    ∧ (s.part = .active → ¬ waited → run = .next (stored.enterDraining cmd))

/-- DRAINING entry: the command is pending, queued diagnoses and waiting writes are withdrawn, every session entry is BROKEN and
every hold timer stopped; every FILLING slot is discarded with one STAGE fault each, which carries index, tag and the count of
words, in ascending region index; the accesses that waited for a slot or a commit wait with cause LOAD; and the Commit Queue, the
commit, the scan and memory stay (R151, R26, R37, R59, R70, R115). -/
def Obligations.DrainingEntryWithdrawsUnsealedWork : Prop :=
  ∀ (s : State) (c : Command),
    (∀ k : Fin 12, s.slots[k].state = .filling →
      ∃ r x, s.slots[k].region = some r ∧ s.region? r = some x ∧ s.fillingLink r = some k) →
    let discarded := (List.finRange 64).foldl (fun (t : State) r =>
      match s.fillingLink r, s.region? r with
      | some k, some x => t.raise (.stage r x.entry.tag s.slots[k].words.length)
      | _, _ => t) { s with part := .draining }
    ∃ pa pb sl,
      s.enterDraining c =
        { s with
          part := .draining
          ldr := { s.ldr with command := some c }
          diagQueue := []
          waiting := []
          sessionsA := s.sessionsA.map fun e => { e with state := .broken }
          sessionsB := s.sessionsB.map fun e => { e with state := .broken }
          live := s.live.map fun l => l.mapRegions fun x => { x with holdTimer := none }
          log := discarded.log
          alert := discarded.alert
          portA := pa, portB := pb, slots := sl }
      ∧ (∀ k : Fin 12, sl[k] = if s.slots[k].state = .filling then Slot.empty else s.slots[k])
      ∧ ∀ p, (s.enterDraining c).port p =
          if (∃ e ∈ s.waiting, e.port = p) ∨ ((s.port p).access.map Access.phase) = some (.held .commit) then
            { s.port p with
              access := (s.port p).access.map fun a =>
                { a with phase := .held .load, cls := .unclassed, waitedLoad := true } }
          else s.port p

/-- DRAIN_END, when the Commit Queue is empty, no commit and no scan is in progress and the Record Writer holds nothing: every
deadline timer is disarmed; a pending LOAD sets the live table aside and starts the shadow read with origin ACTIVE; a pending
UNLOAD asks for the clearing write, with the part still in DRAINING (R152, R95). That
nothing changes while a condition does not hold, so that there is no end to take, is the model's choice (DESIGN CHOICE, log 1).
UNLOAD_END, at that clearing write: the live table goes, both Session Tables are emptied, LIVE CHECK becomes 0, no
command is pending, the part enters BYPASS, and the waiting accesses are taken afresh (R153, R60, R154). -/
def Obligations.DrainEndAndUnloadEndActOnTheCommand : Prop :=
  ∀ (s : State), s.running = true → s.part = .draining →
    let drained := s.commitQueue = [] ∧ s.commit = none ∧ s.scan = none ∧ s.log.inHand = none ∧ s.log.queue = []
    let disarmed := s.live.map fun l => l.mapRegions fun x => { x with deadline := none }
    (s.ldr.work = .idle → ¬ drained → exec .drainEnd s = .next s)
    ∧ (s.ldr.work = .idle → drained → s.ldr.command = some .load →
        exec .drainEnd s = .next
          { s with
            part := .loading
            live := none
            retained := disarmed
            ldr :=
              { s.ldr with command := none, work := .shadowRead, shadow := some [], origin := some .active } })
    ∧ (s.ldr.work = .idle → drained → s.ldr.command = some .unload →
        exec .drainEnd s = .next { s with live := disarmed, ldr := { s.ldr with work := .clearUnload } })
    ∧ (s.pins.pfailDue = false → s.ldr.work = .clearUnload →
        s.cycle = some { req := .loader, dir := .write, addr := 0x3F001#18, data := 0#16 } →
        exec .unloadEnd s = .next
          ({ s with
              mem := memWrite s.mem 0x3F001#18 0#16
              cycle := none
              part := .bypass
              live := none
              sessionsA := []
              sessionsB := []
              ldr := { s.ldr with work := .idle, command := none, liveCheck := 0#16 } } : State).releaseLoad)

/-- The first start-up read, of 3F000H, completes: its word is kept and the read of 3F002H is asked for. START_UP_READS_QUALIFY: with
0001H read from 3F000H and now from 3F002H the part enters LOADING with origin BYPASS and begins the shadow read; with any other
pair it stays in BYPASS and the Loader rests (R143). -/
def Obligations.StartUpReadsDecideTheAutoload : Prop :=
  ∀ (s : State) (format autoload : Word), s.running = true → s.pins.pfailDue = false → s.part = .bypass →
    (s.ldr.work = .startUpFormat →
      s.cycle = some { req := .loader, dir := .read, addr := 0x3F000#18, data := format } →
      exec .memoryCycleCompletion s = .next
        { s with cycle := none, ldr := { s.ldr with work := .startUpAutoload format } })
    ∧ (s.ldr.work = .startUpAutoload format →
      s.cycle = some { req := .loader, dir := .read, addr := 0x3F002#18, data := autoload } →
      (format = 1#16 → autoload = 1#16 →
        exec .startUpReadsQualify s = .next
          { s with
            cycle := none
            part := .loading
            ldr := { s.ldr with work := .shadowRead, shadow := some [], origin := some .bypass } })
      ∧ (¬ (format = 1#16 ∧ autoload = 1#16) →
        exec .memoryCycleCompletion s = .next { s with cycle := none, ldr := { s.ldr with work := .idle } }))

/-- Validation takes the checks of Table 8-5 in the order of their codes, each over the enabled entries in ascending index or, for
code 10, over their condition lists in list order, and reports the first failure with its entry index, or condition index. So it
passes exactly when the format is 0001H, word 5 is the XOR of the 1552 words but 1 and 5, the wait limit is not 0, the margin is 1
to 8, and every enabled entry names a port, has a length of 2 to 256, ends below 3F000H, shares no word with an enabled entry of
lower index, and names at most 16 conditions within the pool, each with an address below 3F000H (R145, R146, Tables 8-5 to
8-8). -/
def Obligations.ValidationPassesSoundTables : Prop :=
  ∀ ws : List Word,
    let xored := ((List.range 1552).filter fun j => j != 1 && j != 5).foldl (fun acc j => acc ^^^ ws.getD j 0#16) 0#16
    let enabled := fun i : Fin 64 => (entryWord ws i 0).getLsbD 0
    let base := fun j : Fin 64 => (entryWord ws j 1).toNat + 65536 * ((entryWord ws j 2).toNat % 4)
    let len := fun j : Fin 64 => (entryWord ws j 3).toNat
    let named := fun i : Fin 64 => (entryWord ws i 0).toNat / 2 % 4 = 1 ∨ (entryWord ws i 0).toNat / 2 % 4 = 2
    let apart := fun i j : Fin 64 => base j + len j ≤ base i ∨ base i + len i ≤ base j
    let first := fun i : Fin 64 => (entryWord ws i 6).toNat / 256
    let count := fun i : Fin 64 => (entryWord ws i 6).toNat % 256
    let place := fun c : Nat => (condWord ws c 0).toNat + 65536 * ((condWord ws c 1).toNat % 4)
    let header := fun (code : Nat) (fails : Bool) => if fails then [({ code := code, index := 0 } : LoadResult)] else []
    let entries := fun (code : Nat) (fails : Fin 64 → Bool) =>
      ((List.finRange 64).filter fun i => enabled i && fails i).map fun i => ({ code := code, index := i.val } : LoadResult)
    let conds := (List.finRange 64).flatMap fun i => if enabled i then (List.range (count i)).map (first i + ·) else []
    validate ws =
        (header 1 (headerWord ws 0 ≠ 1#16) ++ header 2 (headerWord ws 5 ≠ xored) ++ header 3 (headerWord ws 3 = 0#16)
          ++ header 4 (¬ (1 ≤ (headerWord ws 4).toNat ∧ (headerWord ws 4).toNat ≤ 8))
          ++ entries 5 (fun i => ¬ named i) ++ entries 6 (fun i => ¬ (2 ≤ len i ∧ len i ≤ 256))
          ++ entries 7 (fun i => 0x3F000 ≤ base i + len i - 1)
          ++ entries 8 (fun i => ∃ j : Fin 64, j < i ∧ enabled j = true ∧ ¬ apart i j)
          ++ entries 9 (fun i => 16 < count i ∨ 256 < first i + count i)
          ++ (conds.filter fun c => 0x3F000 ≤ place c).map fun c => ({ code := 10, index := c } : LoadResult)).head?
    ∧ (validate ws = none ↔
        headerWord ws 0 = 1#16 ∧ headerWord ws 5 = xored ∧ headerWord ws 3 ≠ 0#16
        ∧ 1 ≤ (headerWord ws 4).toNat ∧ (headerWord ws 4).toNat ≤ 8
        ∧ ∀ i : Fin 64, enabled i = true →
            named i ∧ 2 ≤ len i ∧ len i ≤ 256 ∧ base i + len i - 1 < 0x3F000
            ∧ (∀ j : Fin 64, j < i → enabled j = true → apart i j)
            ∧ count i ≤ 16 ∧ first i + count i ≤ 256
            ∧ ∀ c, first i ≤ c → c < first i + count i → place c < 0x3F000)

/-- Each of the first 1551 shadow reads completes: its word joins the shadow and the next word's read is asked for.
SHADOW_READ_END: the last of the 1552 words joins the shadow, which is validated. A failure asks for the clearing write with its
reason; a table that passes asks for the torn-scan read of its first enabled entry, or for the clearing write when none is
enabled. A torn-scan read takes the stored generation, and TORN unless the stored state is CLEAN; for COMMITTING and the fourth
code a TORN fault is raised and then a rewrite queued, at the tail of the Record Writer's queue behind the fault's record, in hand or
waiting, or taken in hand when the Record Writer holds nothing; the next enabled entry is read, or the clearing write follows.
Nothing else changes (R144, R145, R147, R149, R5, R120, R123). -/
def Obligations.ShadowReadsAndTornScanFollowInOrder : Prop :=
  (∀ (s : State) (ws : List Word) (w : Word), s.running = true → s.pins.pfailDue = false → s.part = .loading →
    s.ldr.work = .shadowRead → s.ldr.shadow = some ws → ws.length < 1551 →
    s.cycle = some { req := .loader, dir := .read, addr := BitVec.ofNat 18 (0x3F000 + ws.length), data := w } →
    exec .memoryCycleCompletion s = .next
      { s with cycle := none, ldr := { s.ldr with shadow := some (ws ++ [w]), work := .shadowRead } })
  ∧ (∀ (s : State) (ws : List Word) (w : Word), s.running = true → s.pins.pfailDue = false → s.part = .loading →
    s.ldr.work = .shadowRead → s.ldr.shadow = some ws → ws.length = 1551 →
    s.cycle = some { req := .loader, dir := .read, addr := 0x3F60F#18, data := w } →
    let enabled := (List.finRange 64).filter fun i => (entryWord (ws ++ [w]) i 0).getLsbD 0
    exec .shadowReadEnd s = .next
      { s with
        cycle := none
        ldr :=
          { s.ldr with
            shadow := some (ws ++ [w])
            work := match validate (ws ++ [w]), enabled with
              | some reason, _ => .clearFailure reason
              | none, [] => .clearSuccess []
              | none, i :: rest => .tornScan i rest [] } })
  ∧ ∀ (s : State) (i : Fin 64) (rest : List (Fin 64)) (found : List Found) (ws : List Word) (gen : BitVec 10)
    (code : BitVec 2) (low : BitVec 4) (a : Addr), s.running = true → s.pins.pfailDue = false → s.part = .loading →
    s.ldr.work = .tornScan i rest found → s.ldr.shadow = some ws →
    s.cycle = some { req := .loader, dir := .read, addr := a, data := gen ++ code ++ low } →
    let all := found ++ [{ region := i, gen := gen, torn := decide (code ≠ 0b00#2) }]
    let next : State :=
      { s with
        cycle := none
        ldr :=
          { s.ldr with
            work := match rest with
              | [] => .clearSuccess all
              | j :: more => .tornScan j more all } }
    let raised := next.raise (.torn i (entryWord ws i 7) gen)
    exec .memoryCycleCompletion s = .next
      (if code = 0b01#2 ∨ code = 0b11#2 then raised.enqueue (.torn (entryBase ws i) gen) else next)
    ∧ (code = 0b01#2 ∨ code = 0b11#2 →
      let base := BitVec.ofNat 18 ((entryWord ws i 1).toNat + 65536 * (entryWord ws i 2).toNat)
      let f : FaultRecord := { seq := s.log.nextSeq, time := s.time, detail := .torn i (entryWord ws i 7) gen }
      let logged := s.log.occupancy + s.log.recordCount < 32 ∧ s.log.recordCount < 8
      let ends := fun (queue : List Item) (hand : Option InHand) =>
        exec .memoryCycleCompletion s = .next { raised with log := { raised.log with queue := queue, inHand := hand } }
      (logged → s.log.inHand.isSome = true → ends (s.log.queue ++ [.record f, .torn base gen]) s.log.inHand)
      ∧ (logged → s.log.inHand = none → s.log.queue = [] →
          ends [.torn base gen] (some (.record f (s.log.producer.toNat % 32) 0)))
      ∧ (¬ logged → s.log.inHand.isSome = true → ends (s.log.queue ++ [.torn base gen]) s.log.inHand)
      ∧ (¬ logged → s.log.inHand = none → s.log.queue = [] → ends [] (some (.torn base gen))))

/-- LOAD_SUCCESS: word 1 is cleared, the shadow becomes the live table, a retained table goes, the Session Tables are emptied, wait
limit, margin, LIVE CHECK and LOAD RESULT are set and the part enters ACTIVE. Each enabled entry that the torn scan took is a live
region with the fields of Table 8-7, the generation and state taken and its deadline armed; the pool's 256 conditions have the
fields of Table 8-8. The waiting accesses are then taken afresh; nothing else changes (R148, R5, R91, R104, R146, R154, R155). That
a writer code that names no port, which validation refuses, reads as port A is the model's choice (DESIGN CHOICE, log 20). -/
def Obligations.LoadSuccessPutsTheTableInForce : Prop :=
  ∀ (s : State) (ws : List Word) (found : List Found), s.running = true → s.pins.pfailDue = false → s.part = .loading →
    s.ldr.work = .clearSuccess found → s.ldr.shadow = some ws →
    s.cycle = some { req := .loader, dir := .write, addr := 0x3F001#18, data := 0#16 } →
    let entry := fun i : Fin 64 =>
      ({ writer := if (entryWord ws i 0).extractLsb' 1 2 = 0b10#2 then .b else .a
         learn := (entryWord ws i 0).getLsbD 3
         base := BitVec.ofNat 18 ((entryWord ws i 1).toNat + 65536 * (entryWord ws i 2).toNat)
         len := (entryWord ws i 3).toNat
         hold := (entryWord ws i 4).toNat % 256
         period := (entryWord ws i 5).toNat
         condFirst := (entryWord ws i 6).toNat / 256
         condCount := (entryWord ws i 6).toNat % 256
         tag := entryWord ws i 7 } : Entry)
    exec .loadSuccess s = .next
      ({ s with
          mem := memWrite s.mem 0x3F001#18 0#16
          cycle := none
          part := .active
          live := some
            { regions := Vector.ofFn fun i : Fin 64 =>
                if (entryWord ws i 0).getLsbD 0 then
                  (found.find? fun f => f.region == i).map fun f =>
                    { entry := entry i
                      gen := f.gen
                      header := if f.torn then .torn else .clean
                      stale := false
                      holdTimer := none
                      deadline :=
                        if 0 < (entryWord ws i 5).toNat ∧ (entryWord ws i 0).getLsbD 3 = false then
                          some (s.time + BitVec.ofNat 32 ((entryWord ws i 5).toNat * 1000))
                        else none
                      lastCommit := none
                      longest := 0
                      proposed := (entryWord ws i 5).toNat }
                else none
              conds := (List.range 256).map fun c =>
                { addr := BitVec.ofNat 18 ((condWord ws c 0).toNat + 65536 * (condWord ws c 1).toNat)
                  sense := if (condWord ws c 1).getLsbD 15 then .differ else .equal
                  mask := condWord ws c 2
                  expected := condWord ws c 3 } }
          retained := none
          sessionsA := []
          sessionsB := []
          ldr :=
            { s.ldr with
              work := .idle
              shadow := none
              origin := none
              waitLimit := (headerWord ws 3).toNat
              margin := some (headerWord ws 4).toNat
              liveCheck :=
                ((List.range 1552).filter fun j => j != 1 && j != 5).foldl (fun acc j => acc ^^^ ws.getD j 0#16) 0#16
              result := { code := 0, index := 0 } } } : State).releaseLoad

/-- LOAD_FAILURE: word 1 is cleared, a LOAD fault carries the reason, LOAD RESULT takes it, the shadow goes, and the part returns to
BYPASS, or to ACTIVE with the retained table, whose deadlines are armed afresh and completion times cleared; the waiting
accesses are then taken afresh (R149, R95, R103, R150, R154). That the LOAD fault is raised before they are taken, so that it has
the lower sequence number, is the model's reading (DEDUCED, log 21). -/
def Obligations.LoadFailureReturnsToTheOrigin : Prop :=
  ∀ (s : State) (reason : LoadResult), s.running = true → s.pins.pfailDue = false → s.part = .loading →
    s.ldr.work = .clearFailure reason →
    s.cycle = some { req := .loader, dir := .write, addr := 0x3F001#18, data := 0#16 } →
    let raised := ({ s with mem := memWrite s.mem 0x3F001#18 0#16, cycle := none } : State).raise
      (.load reason.code reason.index)
    let ended : Loader := { s.ldr with work := .idle, shadow := none, result := reason, origin := none }
    (s.ldr.origin = some .bypass →
      exec .loadFailure s = .next ({ raised with part := .bypass, ldr := ended } : State).releaseLoad)
    ∧ (s.ldr.origin = some .active →
      exec .loadFailure s = .next
        ({ raised with
            part := .active
            retained := none
            live := s.retained.map fun l => l.mapRegions fun x =>
              { x with
                lastCommit := none
                deadline :=
                  if 0 < x.entry.period ∧ x.entry.learn = false then
                    some (s.time + BitVec.ofNat 32 (x.entry.period * 1000))
                  else none }
            ldr := ended } : State).releaseLoad)

/-! ## The lines and the supply -/

/-- PFAIL_N_FALLING: the part enters PFAIL; each access in flight is ended, a read with FFFFH while its strobes are held; every
slot but a COMMITTING one is FREE, the Commit Queue and the list of waiting writes empty; the Loader's work is abandoned; hold
and deadline timers and the holdoff stop and ALERT_N is released; the Record Writer's waiting items are dropped; the commit, the
item in hand, the carried cycle, the Session Tables, the scan record and memory stand (R157 to R161, R133, R116). In PFAIL, and
while RESET_N is low, the fall is not acted on (R157, R180). That a dropped record's causes become pending with OVERFLOW (log
24), that a command write still held raises no BUSY (log 12), that the fall clears a PFAIL_N level still to be taken (log 13) and
that a read whose strobes are lifted at the fall drives nothing (log 10) is the model's reading. -/
def Obligations.PfailFallEntersPfail : Prop :=
  ∀ s : State, s.pins.powered = true →
    let ended := fun q : PortRec =>
      match q.access with
      | some a => { q with access := none, driven := match a.dir with
          | .read => if q.strobes then some 0xFFFF#16 else none
          | .write => none }
      | none => q
    (s.part = .pfail ∨ s.pins.resetN = false →
      exec .pfailNFalling s = .next { s with pins := { s.pins with pfailN := false } })
    ∧ (s.part ≠ .pfail → s.pins.resetN = true →
      exec .pfailNFalling s = .next
          { s with
            part := .pfail
            pins := { s.pins with pfailN := false, pfailDue := false }
            portA := ended s.portA
            portB := ended s.portB
            slots := s.slots.map fun x => if x.state = .committing then x else Slot.empty
            commitQueue := []
            waiting := []
            log := { s.log with queue := [] }
            alert :=
              { s.alert with
                pending := s.log.queue.foldl (fun causes i => match i with
                  | .record f => causes ||| f.detail.cause ||| 0x80#8
                  | .writeBack _ _ => causes
                  | .torn _ _ => causes) s.alert.pending
                holdoff := none
                asserted := false }
            ldr := { s.ldr with work := .idle }
            live := s.live.map fun l => l.mapRegions fun x => { x with holdTimer := none, deadline := none } })

/-- RESET_N_FALLING: with REFCLK stopped no period is counted; below 160 periods the pulse is timed and nothing else changes; from
160 on the reset takes effect, once: the write carried at the memory port is made, each port records the access it held, and
every block is at its reset value, the part state standing until the release (R180, R173, R140, R157, R82, R134, R178).
SHORT_RESET_PULSE_END ends a pulse of which fewer than 160 periods are counted, and a low PFAIL_N is then taken as a fall, unless
the part is in PFAIL (R180). The model's own: the count comes with the command, the larger of it and the periods counted holds, and
a pulse of 160 counted periods has no short end (log 14); a fall that comes again once the reset has taken effect is no event (log
1); the carried write is made in this very event (log 11); each port drives nothing from then on, while its strobes keep the
host's level (DESIGN CHOICE, log 10, with the levels of log 7); the reset of a part without supply stands for the supply's return
(log 18); a PFAIL_N level still to be taken is taken first (log 13). -/
def Obligations.ResetTakesEffectAfter160Periods : Prop :=
  ∀ (s : State) (n : Nat),
    let counted := max n s.pins.resetLowPeriods
    let recording := fun q : PortRec =>
      { PortRec.idle with
        strobes := q.strobes
        recorded := q.access.map fun a => { dir := a.dir, addr := a.addr, value := a.value } }
    (s.pins.resetTaken = true → exec (.resetNFalling n) s = .next s)
    ∧ (s.running = true → s.pins.pfailDue = true → s.part ≠ .pfail →
        exec (.resetNFalling n) s = exec (.resetNFalling n) s.enterPfail)
    ∧ (s.running = true → s.pins.pfailDue = false → s.pins.refclk = false →
        exec (.resetNFalling n) s = .next { s with pins := { s.pins with resetN := false } })
    ∧ (s.running = true → s.pins.pfailDue = false → s.pins.refclk = true → counted < 160 →
        exec (.resetNFalling n) s = .next { s with pins := { s.pins with resetN := false, resetLowPeriods := counted } })
    ∧ (s.pins.resetTaken = false → s.pins.pfailDue = false → s.pins.refclk = true → 160 ≤ counted →
        exec (.resetNFalling n) s = .next
          { State.reset with
            pending := s.pending
            part := s.part
            pins :=
              { s.pins with powered := true, resetN := false, resetLowPeriods := 0, resetTaken := true, pfailDue := false }
            ldr := { State.reset.ldr with work := .idle }
            mem := match s.cycle with
              | some { dir := .write, addr := a, data := w, .. } => memWrite s.mem a w
              | _ => s.mem
            portA := recording s.portA
            portB := recording s.portB
            arrivals := s.arrivals
            freeIndex := s.freeIndex })
    ∧ ∀ low : Bool, s.running = true →
        let ended : State := { s with pins := { s.pins with resetN := true, resetLowPeriods := 0, pfailN := !low } }
        (s.pins.resetLowPeriods < 160 →
          exec (.shortResetPulseEnd low) s = .next (if low = true ∧ s.part ≠ .pfail then ended.enterPfail else ended))
        ∧ (160 ≤ s.pins.resetLowPeriods → exec (.shortResetPulseEnd low) s = .next s)

/-- RESET_N_RELEASE: the part is in BYPASS with every block at its reset value and the start-up read of 3F000H asked for; memory is
kept; a low PFAIL_N is still to be taken as a fall; then the access a port recorded is taken as an arrival, and of one at each port
either may be first (R140, R143, R157, R165, R173, Tables 7-2, 8-3 and 10-4). A reset whose 160 periods are counted has taken
effect by the release (R180). The model's own: the flag that holds the low PFAIL_N (log 13), that the strobes keep the host's level
and nothing is driven (log 10), that a free value settles which access is first (log 4), and that the reset that is due is taken in
the release when it has not been taken before (log 14). -/
def Obligations.ReleaseLeavesEveryBlockAtItsResetValue : Prop :=
  ∀ (s : State) (low : Bool), s.pins.powered = true →
    (s.pins.resetTaken = true →
      let t : State :=
        { State.reset with
          pending := s.pending
          pins := { State.reset.pins with refclk := s.pins.refclk, pfailN := !low, pfailDue := low }
          portA := { PortRec.idle with strobes := s.portA.strobes }
          portB := { PortRec.idle with strobes := s.portB.strobes }
          mem := s.mem
          arrivals := s.arrivals
          freeIndex := s.freeIndex }
      (t.running = true ∧ t.pins.resetN = true ∧ t.pins.resetLowPeriods = 0
        ∧ t.part = .bypass ∧ t.time = 0 ∧ t.live = none ∧ t.retained = none ∧ t.ldr.work = .startUpFormat
        ∧ t.ldr.shadow = none ∧ t.ldr.origin = none
        ∧ t.ldr.command = none ∧ t.ldr.waitLimit = 1000 ∧ t.ldr.margin = none ∧ t.ldr.liveCheck = 0
        ∧ t.ldr.result = { code := 0, index := 0 }
        ∧ (∀ k : Fin 12, t.slots[k] = Slot.empty) ∧ t.waiting = [] ∧ t.commitQueue = [] ∧ t.commit = none
        ∧ t.sessionsA = [] ∧ t.sessionsB = [] ∧ t.diagQueue = [] ∧ t.scan = none
        ∧ t.log = { nextSeq := 0, producer := 0, consumer := 0, queue := [], inHand := none }
        ∧ t.alert = { pending := 0, mask := 0xFF, n := 0, holdoff := none, asserted := false }
        ∧ t.pointer = .a ∧ t.cycle = none
        ∧ ∀ p, t.port p =
            { access := none, latch := 0, strobes := (s.port p).strobes, driven := none, recorded := none })
      ∧ (s.portA.recorded = none → s.portB.recorded = none → exec (.resetNRelease low) s = .next t)
      ∧ (∀ p q, (s.port p).recorded = some q → (s.port p.other).recorded = none →
          exec (.resetNRelease low) s = .next (t.arrive p q.dir q.addr q.value))
      ∧ ∀ qa qb, s.portA.recorded = some qa → s.portB.recorded = some qb →
          let u : State := { t with freeIndex := t.freeIndex + 1 }
          exec (.resetNRelease low) s =
              .next ((u.arrive .a qa.dir qa.addr qa.value).arrive .b qb.dir qb.addr qb.value)
            ∨ exec (.resetNRelease low) s =
              .next ((u.arrive .b qb.dir qb.addr qb.value).arrive .a qa.dir qa.addr qa.value))
    ∧ (s.pins.resetTaken = false → s.pins.refclk = true → 160 ≤ s.pins.resetLowPeriods →
        ∃ v, exec (.resetNFalling s.pins.resetLowPeriods) s = .next v ∧ v.pins.powered = true ∧ v.pins.resetTaken = true
          ∧ exec (.resetNRelease low) s = exec (.resetNRelease low) v)

/-- LOSS_OF_SUPPLY: the part's own state is gone and memory holds what it held (R164, R165). The model's own: the write carried at
that moment is made whole or not at all (DESIGN CHOICE, log 5), the state of the unpowered part stands at its reset values, and
no command but a reset of 160 REFCLK periods changes anything of it (DESIGN CHOICE, log 18). -/
def Obligations.LossOfSupplyKeepsMemoryAlone : Prop :=
  ∀ s : State, s.pins.powered = true → ∃ mem n,
    let t : State :=
      { State.reset with
        pending := s.pending
        pins := { s.pins with powered := false, resetLowPeriods := 0, resetTaken := false, pfailDue := false }
        mem := mem
        ldr := { State.reset.ldr with work := .idle }
        arrivals := s.arrivals
        freeIndex := n }
    exec .lossOfSupply s = .next t
    ∧ (mem = s.mem ∨ ∃ c, s.cycle = some c ∧ c.dir = .write ∧ mem = memWrite s.mem c.addr c.data)
    ∧ ∀ c, (∀ n, c = .resetNFalling n → n < 160) → exec c t = .next t
end

