-- ==== Sys2Proof/Laws/State.lean ====
section
/-! SUPPORT. The small lemmas of the state's named updates: one lemma per field per update, and what each update does to the
part it changes. -/

namespace Sys2Proof.Machine

/-! ## Fields an update leaves -/

/-! ### `setPort` -/

@[simp] theorem State.setPort_pending (s : State) (p : Port) (r : PortRec) : (s.setPort p r).pending = s.pending := by cases p <;> rfl
@[simp] theorem State.setPort_pins (s : State) (p : Port) (r : PortRec) : (s.setPort p r).pins = s.pins := by cases p <;> rfl
@[simp] theorem State.setPort_part (s : State) (p : Port) (r : PortRec) : (s.setPort p r).part = s.part := by cases p <;> rfl
@[simp] theorem State.setPort_time (s : State) (p : Port) (r : PortRec) : (s.setPort p r).time = s.time := by cases p <;> rfl
@[simp] theorem State.setPort_mem (s : State) (p : Port) (r : PortRec) : (s.setPort p r).mem = s.mem := by cases p <;> rfl
@[simp] theorem State.setPort_cycle (s : State) (p : Port) (r : PortRec) : (s.setPort p r).cycle = s.cycle := by cases p <;> rfl
@[simp] theorem State.setPort_pointer (s : State) (p : Port) (r : PortRec) : (s.setPort p r).pointer = s.pointer := by cases p <;> rfl
@[simp] theorem State.setPort_ldr (s : State) (p : Port) (r : PortRec) : (s.setPort p r).ldr = s.ldr := by cases p <;> rfl
@[simp] theorem State.setPort_live (s : State) (p : Port) (r : PortRec) : (s.setPort p r).live = s.live := by cases p <;> rfl
@[simp] theorem State.setPort_retained (s : State) (p : Port) (r : PortRec) : (s.setPort p r).retained = s.retained := by cases p <;> rfl
@[simp] theorem State.setPort_slots (s : State) (p : Port) (r : PortRec) : (s.setPort p r).slots = s.slots := by cases p <;> rfl
@[simp] theorem State.setPort_waiting (s : State) (p : Port) (r : PortRec) : (s.setPort p r).waiting = s.waiting := by cases p <;> rfl
@[simp] theorem State.setPort_commitQueue (s : State) (p : Port) (r : PortRec) : (s.setPort p r).commitQueue = s.commitQueue := by cases p <;> rfl
@[simp] theorem State.setPort_commit (s : State) (p : Port) (r : PortRec) : (s.setPort p r).commit = s.commit := by cases p <;> rfl
@[simp] theorem State.setPort_sessionsA (s : State) (p : Port) (r : PortRec) : (s.setPort p r).sessionsA = s.sessionsA := by cases p <;> rfl
@[simp] theorem State.setPort_sessionsB (s : State) (p : Port) (r : PortRec) : (s.setPort p r).sessionsB = s.sessionsB := by cases p <;> rfl
@[simp] theorem State.setPort_diagQueue (s : State) (p : Port) (r : PortRec) : (s.setPort p r).diagQueue = s.diagQueue := by cases p <;> rfl
@[simp] theorem State.setPort_scan (s : State) (p : Port) (r : PortRec) : (s.setPort p r).scan = s.scan := by cases p <;> rfl
@[simp] theorem State.setPort_log (s : State) (p : Port) (r : PortRec) : (s.setPort p r).log = s.log := by cases p <;> rfl
@[simp] theorem State.setPort_alert (s : State) (p : Port) (r : PortRec) : (s.setPort p r).alert = s.alert := by cases p <;> rfl
@[simp] theorem State.setPort_arrivals (s : State) (p : Port) (r : PortRec) : (s.setPort p r).arrivals = s.arrivals := by cases p <;> rfl
@[simp] theorem State.setPort_freeIndex (s : State) (p : Port) (r : PortRec) : (s.setPort p r).freeIndex = s.freeIndex := by cases p <;> rfl

/-! ### `updAccess` -/

@[simp] theorem State.updAccess_pending (s : State) (p : Port) (f : Access → Access) : (s.updAccess p f).pending = s.pending := by cases p <;> rfl
@[simp] theorem State.updAccess_pins (s : State) (p : Port) (f : Access → Access) : (s.updAccess p f).pins = s.pins := by cases p <;> rfl
@[simp] theorem State.updAccess_part (s : State) (p : Port) (f : Access → Access) : (s.updAccess p f).part = s.part := by cases p <;> rfl
@[simp] theorem State.updAccess_time (s : State) (p : Port) (f : Access → Access) : (s.updAccess p f).time = s.time := by cases p <;> rfl
@[simp] theorem State.updAccess_mem (s : State) (p : Port) (f : Access → Access) : (s.updAccess p f).mem = s.mem := by cases p <;> rfl
@[simp] theorem State.updAccess_cycle (s : State) (p : Port) (f : Access → Access) : (s.updAccess p f).cycle = s.cycle := by cases p <;> rfl
@[simp] theorem State.updAccess_pointer (s : State) (p : Port) (f : Access → Access) : (s.updAccess p f).pointer = s.pointer := by cases p <;> rfl
@[simp] theorem State.updAccess_ldr (s : State) (p : Port) (f : Access → Access) : (s.updAccess p f).ldr = s.ldr := by cases p <;> rfl
@[simp] theorem State.updAccess_live (s : State) (p : Port) (f : Access → Access) : (s.updAccess p f).live = s.live := by cases p <;> rfl
@[simp] theorem State.updAccess_retained (s : State) (p : Port) (f : Access → Access) : (s.updAccess p f).retained = s.retained := by cases p <;> rfl
@[simp] theorem State.updAccess_slots (s : State) (p : Port) (f : Access → Access) : (s.updAccess p f).slots = s.slots := by cases p <;> rfl
@[simp] theorem State.updAccess_waiting (s : State) (p : Port) (f : Access → Access) : (s.updAccess p f).waiting = s.waiting := by cases p <;> rfl
@[simp] theorem State.updAccess_commitQueue (s : State) (p : Port) (f : Access → Access) : (s.updAccess p f).commitQueue = s.commitQueue := by cases p <;> rfl
@[simp] theorem State.updAccess_commit (s : State) (p : Port) (f : Access → Access) : (s.updAccess p f).commit = s.commit := by cases p <;> rfl
@[simp] theorem State.updAccess_sessionsA (s : State) (p : Port) (f : Access → Access) : (s.updAccess p f).sessionsA = s.sessionsA := by cases p <;> rfl
@[simp] theorem State.updAccess_sessionsB (s : State) (p : Port) (f : Access → Access) : (s.updAccess p f).sessionsB = s.sessionsB := by cases p <;> rfl
@[simp] theorem State.updAccess_diagQueue (s : State) (p : Port) (f : Access → Access) : (s.updAccess p f).diagQueue = s.diagQueue := by cases p <;> rfl
@[simp] theorem State.updAccess_scan (s : State) (p : Port) (f : Access → Access) : (s.updAccess p f).scan = s.scan := by cases p <;> rfl
@[simp] theorem State.updAccess_log (s : State) (p : Port) (f : Access → Access) : (s.updAccess p f).log = s.log := by cases p <;> rfl
@[simp] theorem State.updAccess_alert (s : State) (p : Port) (f : Access → Access) : (s.updAccess p f).alert = s.alert := by cases p <;> rfl
@[simp] theorem State.updAccess_arrivals (s : State) (p : Port) (f : Access → Access) : (s.updAccess p f).arrivals = s.arrivals := by cases p <;> rfl
@[simp] theorem State.updAccess_freeIndex (s : State) (p : Port) (f : Access → Access) : (s.updAccess p f).freeIndex = s.freeIndex := by cases p <;> rfl

/-! ### `endAccess` -/

@[simp] theorem State.endAccess_pending (s : State) (p : Port) (d : Option Word) : (s.endAccess p d).pending = s.pending := by cases p <;> rfl
@[simp] theorem State.endAccess_pins (s : State) (p : Port) (d : Option Word) : (s.endAccess p d).pins = s.pins := by cases p <;> rfl
@[simp] theorem State.endAccess_part (s : State) (p : Port) (d : Option Word) : (s.endAccess p d).part = s.part := by cases p <;> rfl
@[simp] theorem State.endAccess_time (s : State) (p : Port) (d : Option Word) : (s.endAccess p d).time = s.time := by cases p <;> rfl
@[simp] theorem State.endAccess_mem (s : State) (p : Port) (d : Option Word) : (s.endAccess p d).mem = s.mem := by cases p <;> rfl
@[simp] theorem State.endAccess_cycle (s : State) (p : Port) (d : Option Word) : (s.endAccess p d).cycle = s.cycle := by cases p <;> rfl
@[simp] theorem State.endAccess_pointer (s : State) (p : Port) (d : Option Word) : (s.endAccess p d).pointer = s.pointer := by cases p <;> rfl
@[simp] theorem State.endAccess_ldr (s : State) (p : Port) (d : Option Word) : (s.endAccess p d).ldr = s.ldr := by cases p <;> rfl
@[simp] theorem State.endAccess_live (s : State) (p : Port) (d : Option Word) : (s.endAccess p d).live = s.live := by cases p <;> rfl
@[simp] theorem State.endAccess_retained (s : State) (p : Port) (d : Option Word) : (s.endAccess p d).retained = s.retained := by cases p <;> rfl
@[simp] theorem State.endAccess_slots (s : State) (p : Port) (d : Option Word) : (s.endAccess p d).slots = s.slots := by cases p <;> rfl
@[simp] theorem State.endAccess_waiting (s : State) (p : Port) (d : Option Word) : (s.endAccess p d).waiting = s.waiting := by cases p <;> rfl
@[simp] theorem State.endAccess_commitQueue (s : State) (p : Port) (d : Option Word) : (s.endAccess p d).commitQueue = s.commitQueue := by cases p <;> rfl
@[simp] theorem State.endAccess_commit (s : State) (p : Port) (d : Option Word) : (s.endAccess p d).commit = s.commit := by cases p <;> rfl
@[simp] theorem State.endAccess_sessionsA (s : State) (p : Port) (d : Option Word) : (s.endAccess p d).sessionsA = s.sessionsA := by cases p <;> rfl
@[simp] theorem State.endAccess_sessionsB (s : State) (p : Port) (d : Option Word) : (s.endAccess p d).sessionsB = s.sessionsB := by cases p <;> rfl
@[simp] theorem State.endAccess_diagQueue (s : State) (p : Port) (d : Option Word) : (s.endAccess p d).diagQueue = s.diagQueue := by cases p <;> rfl
@[simp] theorem State.endAccess_scan (s : State) (p : Port) (d : Option Word) : (s.endAccess p d).scan = s.scan := by cases p <;> rfl
@[simp] theorem State.endAccess_log (s : State) (p : Port) (d : Option Word) : (s.endAccess p d).log = s.log := by cases p <;> rfl
@[simp] theorem State.endAccess_alert (s : State) (p : Port) (d : Option Word) : (s.endAccess p d).alert = s.alert := by cases p <;> rfl
@[simp] theorem State.endAccess_arrivals (s : State) (p : Port) (d : Option Word) : (s.endAccess p d).arrivals = s.arrivals := by cases p <;> rfl
@[simp] theorem State.endAccess_freeIndex (s : State) (p : Port) (d : Option Word) : (s.endAccess p d).freeIndex = s.freeIndex := by cases p <;> rfl

/-! ### `strobe` -/

@[simp] theorem State.strobe_pending (s : State) (p : Port) : (s.strobe p).pending = s.pending := by cases p <;> rfl
@[simp] theorem State.strobe_pins (s : State) (p : Port) : (s.strobe p).pins = s.pins := by cases p <;> rfl
@[simp] theorem State.strobe_part (s : State) (p : Port) : (s.strobe p).part = s.part := by cases p <;> rfl
@[simp] theorem State.strobe_time (s : State) (p : Port) : (s.strobe p).time = s.time := by cases p <;> rfl
@[simp] theorem State.strobe_mem (s : State) (p : Port) : (s.strobe p).mem = s.mem := by cases p <;> rfl
@[simp] theorem State.strobe_cycle (s : State) (p : Port) : (s.strobe p).cycle = s.cycle := by cases p <;> rfl
@[simp] theorem State.strobe_pointer (s : State) (p : Port) : (s.strobe p).pointer = s.pointer := by cases p <;> rfl
@[simp] theorem State.strobe_ldr (s : State) (p : Port) : (s.strobe p).ldr = s.ldr := by cases p <;> rfl
@[simp] theorem State.strobe_live (s : State) (p : Port) : (s.strobe p).live = s.live := by cases p <;> rfl
@[simp] theorem State.strobe_retained (s : State) (p : Port) : (s.strobe p).retained = s.retained := by cases p <;> rfl
@[simp] theorem State.strobe_slots (s : State) (p : Port) : (s.strobe p).slots = s.slots := by cases p <;> rfl
@[simp] theorem State.strobe_waiting (s : State) (p : Port) : (s.strobe p).waiting = s.waiting := by cases p <;> rfl
@[simp] theorem State.strobe_commitQueue (s : State) (p : Port) : (s.strobe p).commitQueue = s.commitQueue := by cases p <;> rfl
@[simp] theorem State.strobe_commit (s : State) (p : Port) : (s.strobe p).commit = s.commit := by cases p <;> rfl
@[simp] theorem State.strobe_sessionsA (s : State) (p : Port) : (s.strobe p).sessionsA = s.sessionsA := by cases p <;> rfl
@[simp] theorem State.strobe_sessionsB (s : State) (p : Port) : (s.strobe p).sessionsB = s.sessionsB := by cases p <;> rfl
@[simp] theorem State.strobe_diagQueue (s : State) (p : Port) : (s.strobe p).diagQueue = s.diagQueue := by cases p <;> rfl
@[simp] theorem State.strobe_scan (s : State) (p : Port) : (s.strobe p).scan = s.scan := by cases p <;> rfl
@[simp] theorem State.strobe_log (s : State) (p : Port) : (s.strobe p).log = s.log := by cases p <;> rfl
@[simp] theorem State.strobe_alert (s : State) (p : Port) : (s.strobe p).alert = s.alert := by cases p <;> rfl
@[simp] theorem State.strobe_arrivals (s : State) (p : Port) : (s.strobe p).arrivals = s.arrivals := by cases p <;> rfl
@[simp] theorem State.strobe_freeIndex (s : State) (p : Port) : (s.strobe p).freeIndex = s.freeIndex := by cases p <;> rfl

/-! ### `liftStrobes` -/

@[simp] theorem State.liftStrobes_pending (s : State) (p : Port) : (s.liftStrobes p).pending = s.pending := by cases p <;> rfl
@[simp] theorem State.liftStrobes_pins (s : State) (p : Port) : (s.liftStrobes p).pins = s.pins := by cases p <;> rfl
@[simp] theorem State.liftStrobes_part (s : State) (p : Port) : (s.liftStrobes p).part = s.part := by cases p <;> rfl
@[simp] theorem State.liftStrobes_time (s : State) (p : Port) : (s.liftStrobes p).time = s.time := by cases p <;> rfl
@[simp] theorem State.liftStrobes_mem (s : State) (p : Port) : (s.liftStrobes p).mem = s.mem := by cases p <;> rfl
@[simp] theorem State.liftStrobes_cycle (s : State) (p : Port) : (s.liftStrobes p).cycle = s.cycle := by cases p <;> rfl
@[simp] theorem State.liftStrobes_pointer (s : State) (p : Port) : (s.liftStrobes p).pointer = s.pointer := by cases p <;> rfl
@[simp] theorem State.liftStrobes_ldr (s : State) (p : Port) : (s.liftStrobes p).ldr = s.ldr := by cases p <;> rfl
@[simp] theorem State.liftStrobes_live (s : State) (p : Port) : (s.liftStrobes p).live = s.live := by cases p <;> rfl
@[simp] theorem State.liftStrobes_retained (s : State) (p : Port) : (s.liftStrobes p).retained = s.retained := by cases p <;> rfl
@[simp] theorem State.liftStrobes_slots (s : State) (p : Port) : (s.liftStrobes p).slots = s.slots := by cases p <;> rfl
@[simp] theorem State.liftStrobes_waiting (s : State) (p : Port) : (s.liftStrobes p).waiting = s.waiting := by cases p <;> rfl
@[simp] theorem State.liftStrobes_commitQueue (s : State) (p : Port) : (s.liftStrobes p).commitQueue = s.commitQueue := by cases p <;> rfl
@[simp] theorem State.liftStrobes_commit (s : State) (p : Port) : (s.liftStrobes p).commit = s.commit := by cases p <;> rfl
@[simp] theorem State.liftStrobes_sessionsA (s : State) (p : Port) : (s.liftStrobes p).sessionsA = s.sessionsA := by cases p <;> rfl
@[simp] theorem State.liftStrobes_sessionsB (s : State) (p : Port) : (s.liftStrobes p).sessionsB = s.sessionsB := by cases p <;> rfl
@[simp] theorem State.liftStrobes_diagQueue (s : State) (p : Port) : (s.liftStrobes p).diagQueue = s.diagQueue := by cases p <;> rfl
@[simp] theorem State.liftStrobes_scan (s : State) (p : Port) : (s.liftStrobes p).scan = s.scan := by cases p <;> rfl
@[simp] theorem State.liftStrobes_log (s : State) (p : Port) : (s.liftStrobes p).log = s.log := by cases p <;> rfl
@[simp] theorem State.liftStrobes_alert (s : State) (p : Port) : (s.liftStrobes p).alert = s.alert := by cases p <;> rfl
@[simp] theorem State.liftStrobes_arrivals (s : State) (p : Port) : (s.liftStrobes p).arrivals = s.arrivals := by cases p <;> rfl
@[simp] theorem State.liftStrobes_freeIndex (s : State) (p : Port) : (s.liftStrobes p).freeIndex = s.freeIndex := by cases p <;> rfl

/-! ### `hold` -/

@[simp] theorem State.hold_pending (s : State) (p : Port) (c : WaitCause) (k : AccessClass) : (s.hold p c k).pending = s.pending := by cases p <;> rfl
@[simp] theorem State.hold_pins (s : State) (p : Port) (c : WaitCause) (k : AccessClass) : (s.hold p c k).pins = s.pins := by cases p <;> rfl
@[simp] theorem State.hold_part (s : State) (p : Port) (c : WaitCause) (k : AccessClass) : (s.hold p c k).part = s.part := by cases p <;> rfl
@[simp] theorem State.hold_time (s : State) (p : Port) (c : WaitCause) (k : AccessClass) : (s.hold p c k).time = s.time := by cases p <;> rfl
@[simp] theorem State.hold_mem (s : State) (p : Port) (c : WaitCause) (k : AccessClass) : (s.hold p c k).mem = s.mem := by cases p <;> rfl
@[simp] theorem State.hold_cycle (s : State) (p : Port) (c : WaitCause) (k : AccessClass) : (s.hold p c k).cycle = s.cycle := by cases p <;> rfl
@[simp] theorem State.hold_pointer (s : State) (p : Port) (c : WaitCause) (k : AccessClass) : (s.hold p c k).pointer = s.pointer := by cases p <;> rfl
@[simp] theorem State.hold_ldr (s : State) (p : Port) (c : WaitCause) (k : AccessClass) : (s.hold p c k).ldr = s.ldr := by cases p <;> rfl
@[simp] theorem State.hold_live (s : State) (p : Port) (c : WaitCause) (k : AccessClass) : (s.hold p c k).live = s.live := by cases p <;> rfl
@[simp] theorem State.hold_retained (s : State) (p : Port) (c : WaitCause) (k : AccessClass) : (s.hold p c k).retained = s.retained := by cases p <;> rfl
@[simp] theorem State.hold_slots (s : State) (p : Port) (c : WaitCause) (k : AccessClass) : (s.hold p c k).slots = s.slots := by cases p <;> rfl
@[simp] theorem State.hold_waiting (s : State) (p : Port) (c : WaitCause) (k : AccessClass) : (s.hold p c k).waiting = s.waiting := by cases p <;> rfl
@[simp] theorem State.hold_commitQueue (s : State) (p : Port) (c : WaitCause) (k : AccessClass) : (s.hold p c k).commitQueue = s.commitQueue := by cases p <;> rfl
@[simp] theorem State.hold_commit (s : State) (p : Port) (c : WaitCause) (k : AccessClass) : (s.hold p c k).commit = s.commit := by cases p <;> rfl
@[simp] theorem State.hold_sessionsA (s : State) (p : Port) (c : WaitCause) (k : AccessClass) : (s.hold p c k).sessionsA = s.sessionsA := by cases p <;> rfl
@[simp] theorem State.hold_sessionsB (s : State) (p : Port) (c : WaitCause) (k : AccessClass) : (s.hold p c k).sessionsB = s.sessionsB := by cases p <;> rfl
@[simp] theorem State.hold_diagQueue (s : State) (p : Port) (c : WaitCause) (k : AccessClass) : (s.hold p c k).diagQueue = s.diagQueue := by cases p <;> rfl
@[simp] theorem State.hold_scan (s : State) (p : Port) (c : WaitCause) (k : AccessClass) : (s.hold p c k).scan = s.scan := by cases p <;> rfl
@[simp] theorem State.hold_log (s : State) (p : Port) (c : WaitCause) (k : AccessClass) : (s.hold p c k).log = s.log := by cases p <;> rfl
@[simp] theorem State.hold_alert (s : State) (p : Port) (c : WaitCause) (k : AccessClass) : (s.hold p c k).alert = s.alert := by cases p <;> rfl
@[simp] theorem State.hold_arrivals (s : State) (p : Port) (c : WaitCause) (k : AccessClass) : (s.hold p c k).arrivals = s.arrivals := by cases p <;> rfl
@[simp] theorem State.hold_freeIndex (s : State) (p : Port) (c : WaitCause) (k : AccessClass) : (s.hold p c k).freeIndex = s.freeIndex := by cases p <;> rfl

/-! ### `register` -/

@[simp] theorem State.register_pending (s : State) (p : Port) (a : Access) : (s.register p a).pending = s.pending := by cases p <;> rfl
@[simp] theorem State.register_pins (s : State) (p : Port) (a : Access) : (s.register p a).pins = s.pins := by cases p <;> rfl
@[simp] theorem State.register_part (s : State) (p : Port) (a : Access) : (s.register p a).part = s.part := by cases p <;> rfl
@[simp] theorem State.register_time (s : State) (p : Port) (a : Access) : (s.register p a).time = s.time := by cases p <;> rfl
@[simp] theorem State.register_mem (s : State) (p : Port) (a : Access) : (s.register p a).mem = s.mem := by cases p <;> rfl
@[simp] theorem State.register_cycle (s : State) (p : Port) (a : Access) : (s.register p a).cycle = s.cycle := by cases p <;> rfl
@[simp] theorem State.register_pointer (s : State) (p : Port) (a : Access) : (s.register p a).pointer = s.pointer := by cases p <;> rfl
@[simp] theorem State.register_ldr (s : State) (p : Port) (a : Access) : (s.register p a).ldr = s.ldr := by cases p <;> rfl
@[simp] theorem State.register_live (s : State) (p : Port) (a : Access) : (s.register p a).live = s.live := by cases p <;> rfl
@[simp] theorem State.register_retained (s : State) (p : Port) (a : Access) : (s.register p a).retained = s.retained := by cases p <;> rfl
@[simp] theorem State.register_slots (s : State) (p : Port) (a : Access) : (s.register p a).slots = s.slots := by cases p <;> rfl
@[simp] theorem State.register_waiting (s : State) (p : Port) (a : Access) : (s.register p a).waiting = s.waiting := by cases p <;> rfl
@[simp] theorem State.register_commitQueue (s : State) (p : Port) (a : Access) : (s.register p a).commitQueue = s.commitQueue := by cases p <;> rfl
@[simp] theorem State.register_commit (s : State) (p : Port) (a : Access) : (s.register p a).commit = s.commit := by cases p <;> rfl
@[simp] theorem State.register_sessionsA (s : State) (p : Port) (a : Access) : (s.register p a).sessionsA = s.sessionsA := by cases p <;> rfl
@[simp] theorem State.register_sessionsB (s : State) (p : Port) (a : Access) : (s.register p a).sessionsB = s.sessionsB := by cases p <;> rfl
@[simp] theorem State.register_diagQueue (s : State) (p : Port) (a : Access) : (s.register p a).diagQueue = s.diagQueue := by cases p <;> rfl
@[simp] theorem State.register_scan (s : State) (p : Port) (a : Access) : (s.register p a).scan = s.scan := by cases p <;> rfl
@[simp] theorem State.register_log (s : State) (p : Port) (a : Access) : (s.register p a).log = s.log := by cases p <;> rfl
@[simp] theorem State.register_alert (s : State) (p : Port) (a : Access) : (s.register p a).alert = s.alert := by cases p <;> rfl
@[simp] theorem State.register_freeIndex (s : State) (p : Port) (a : Access) : (s.register p a).freeIndex = s.freeIndex := by cases p <;> rfl

/-! ### `latchTime` -/

@[simp] theorem State.latchTime_pending (s : State) (p : Port) : (s.latchTime p).pending = s.pending := by cases p <;> rfl
@[simp] theorem State.latchTime_pins (s : State) (p : Port) : (s.latchTime p).pins = s.pins := by cases p <;> rfl
@[simp] theorem State.latchTime_part (s : State) (p : Port) : (s.latchTime p).part = s.part := by cases p <;> rfl
@[simp] theorem State.latchTime_time (s : State) (p : Port) : (s.latchTime p).time = s.time := by cases p <;> rfl
@[simp] theorem State.latchTime_mem (s : State) (p : Port) : (s.latchTime p).mem = s.mem := by cases p <;> rfl
@[simp] theorem State.latchTime_cycle (s : State) (p : Port) : (s.latchTime p).cycle = s.cycle := by cases p <;> rfl
@[simp] theorem State.latchTime_pointer (s : State) (p : Port) : (s.latchTime p).pointer = s.pointer := by cases p <;> rfl
@[simp] theorem State.latchTime_ldr (s : State) (p : Port) : (s.latchTime p).ldr = s.ldr := by cases p <;> rfl
@[simp] theorem State.latchTime_live (s : State) (p : Port) : (s.latchTime p).live = s.live := by cases p <;> rfl
@[simp] theorem State.latchTime_retained (s : State) (p : Port) : (s.latchTime p).retained = s.retained := by cases p <;> rfl
@[simp] theorem State.latchTime_slots (s : State) (p : Port) : (s.latchTime p).slots = s.slots := by cases p <;> rfl
@[simp] theorem State.latchTime_waiting (s : State) (p : Port) : (s.latchTime p).waiting = s.waiting := by cases p <;> rfl
@[simp] theorem State.latchTime_commitQueue (s : State) (p : Port) : (s.latchTime p).commitQueue = s.commitQueue := by cases p <;> rfl
@[simp] theorem State.latchTime_commit (s : State) (p : Port) : (s.latchTime p).commit = s.commit := by cases p <;> rfl
@[simp] theorem State.latchTime_sessionsA (s : State) (p : Port) : (s.latchTime p).sessionsA = s.sessionsA := by cases p <;> rfl
@[simp] theorem State.latchTime_sessionsB (s : State) (p : Port) : (s.latchTime p).sessionsB = s.sessionsB := by cases p <;> rfl
@[simp] theorem State.latchTime_diagQueue (s : State) (p : Port) : (s.latchTime p).diagQueue = s.diagQueue := by cases p <;> rfl
@[simp] theorem State.latchTime_scan (s : State) (p : Port) : (s.latchTime p).scan = s.scan := by cases p <;> rfl
@[simp] theorem State.latchTime_log (s : State) (p : Port) : (s.latchTime p).log = s.log := by cases p <;> rfl
@[simp] theorem State.latchTime_alert (s : State) (p : Port) : (s.latchTime p).alert = s.alert := by cases p <;> rfl
@[simp] theorem State.latchTime_arrivals (s : State) (p : Port) : (s.latchTime p).arrivals = s.arrivals := by cases p <;> rfl
@[simp] theorem State.latchTime_freeIndex (s : State) (p : Port) : (s.latchTime p).freeIndex = s.freeIndex := by cases p <;> rfl

/-! ### `setSlot` -/

@[simp] theorem State.setSlot_pending (s : State) (k : Fin 12) (x : Slot) : (s.setSlot k x).pending = s.pending := rfl
@[simp] theorem State.setSlot_pins (s : State) (k : Fin 12) (x : Slot) : (s.setSlot k x).pins = s.pins := rfl
@[simp] theorem State.setSlot_part (s : State) (k : Fin 12) (x : Slot) : (s.setSlot k x).part = s.part := rfl
@[simp] theorem State.setSlot_time (s : State) (k : Fin 12) (x : Slot) : (s.setSlot k x).time = s.time := rfl
@[simp] theorem State.setSlot_portA (s : State) (k : Fin 12) (x : Slot) : (s.setSlot k x).portA = s.portA := rfl
@[simp] theorem State.setSlot_portB (s : State) (k : Fin 12) (x : Slot) : (s.setSlot k x).portB = s.portB := rfl
@[simp] theorem State.setSlot_mem (s : State) (k : Fin 12) (x : Slot) : (s.setSlot k x).mem = s.mem := rfl
@[simp] theorem State.setSlot_cycle (s : State) (k : Fin 12) (x : Slot) : (s.setSlot k x).cycle = s.cycle := rfl
@[simp] theorem State.setSlot_pointer (s : State) (k : Fin 12) (x : Slot) : (s.setSlot k x).pointer = s.pointer := rfl
@[simp] theorem State.setSlot_ldr (s : State) (k : Fin 12) (x : Slot) : (s.setSlot k x).ldr = s.ldr := rfl
@[simp] theorem State.setSlot_live (s : State) (k : Fin 12) (x : Slot) : (s.setSlot k x).live = s.live := rfl
@[simp] theorem State.setSlot_retained (s : State) (k : Fin 12) (x : Slot) : (s.setSlot k x).retained = s.retained := rfl
@[simp] theorem State.setSlot_waiting (s : State) (k : Fin 12) (x : Slot) : (s.setSlot k x).waiting = s.waiting := rfl
@[simp] theorem State.setSlot_commitQueue (s : State) (k : Fin 12) (x : Slot) : (s.setSlot k x).commitQueue = s.commitQueue := rfl
@[simp] theorem State.setSlot_commit (s : State) (k : Fin 12) (x : Slot) : (s.setSlot k x).commit = s.commit := rfl
@[simp] theorem State.setSlot_sessionsA (s : State) (k : Fin 12) (x : Slot) : (s.setSlot k x).sessionsA = s.sessionsA := rfl
@[simp] theorem State.setSlot_sessionsB (s : State) (k : Fin 12) (x : Slot) : (s.setSlot k x).sessionsB = s.sessionsB := rfl
@[simp] theorem State.setSlot_diagQueue (s : State) (k : Fin 12) (x : Slot) : (s.setSlot k x).diagQueue = s.diagQueue := rfl
@[simp] theorem State.setSlot_scan (s : State) (k : Fin 12) (x : Slot) : (s.setSlot k x).scan = s.scan := rfl
@[simp] theorem State.setSlot_log (s : State) (k : Fin 12) (x : Slot) : (s.setSlot k x).log = s.log := rfl
@[simp] theorem State.setSlot_alert (s : State) (k : Fin 12) (x : Slot) : (s.setSlot k x).alert = s.alert := rfl
@[simp] theorem State.setSlot_arrivals (s : State) (k : Fin 12) (x : Slot) : (s.setSlot k x).arrivals = s.arrivals := rfl
@[simp] theorem State.setSlot_freeIndex (s : State) (k : Fin 12) (x : Slot) : (s.setSlot k x).freeIndex = s.freeIndex := rfl

/-! ### `setSessions` -/

@[simp] theorem State.setSessions_pending (s : State) (p : Port) (t : List Session) : (s.setSessions p t).pending = s.pending := by cases p <;> rfl
@[simp] theorem State.setSessions_pins (s : State) (p : Port) (t : List Session) : (s.setSessions p t).pins = s.pins := by cases p <;> rfl
@[simp] theorem State.setSessions_part (s : State) (p : Port) (t : List Session) : (s.setSessions p t).part = s.part := by cases p <;> rfl
@[simp] theorem State.setSessions_time (s : State) (p : Port) (t : List Session) : (s.setSessions p t).time = s.time := by cases p <;> rfl
@[simp] theorem State.setSessions_portA (s : State) (p : Port) (t : List Session) : (s.setSessions p t).portA = s.portA := by cases p <;> rfl
@[simp] theorem State.setSessions_portB (s : State) (p : Port) (t : List Session) : (s.setSessions p t).portB = s.portB := by cases p <;> rfl
@[simp] theorem State.setSessions_mem (s : State) (p : Port) (t : List Session) : (s.setSessions p t).mem = s.mem := by cases p <;> rfl
@[simp] theorem State.setSessions_cycle (s : State) (p : Port) (t : List Session) : (s.setSessions p t).cycle = s.cycle := by cases p <;> rfl
@[simp] theorem State.setSessions_pointer (s : State) (p : Port) (t : List Session) : (s.setSessions p t).pointer = s.pointer := by cases p <;> rfl
@[simp] theorem State.setSessions_ldr (s : State) (p : Port) (t : List Session) : (s.setSessions p t).ldr = s.ldr := by cases p <;> rfl
@[simp] theorem State.setSessions_live (s : State) (p : Port) (t : List Session) : (s.setSessions p t).live = s.live := by cases p <;> rfl
@[simp] theorem State.setSessions_retained (s : State) (p : Port) (t : List Session) : (s.setSessions p t).retained = s.retained := by cases p <;> rfl
@[simp] theorem State.setSessions_slots (s : State) (p : Port) (t : List Session) : (s.setSessions p t).slots = s.slots := by cases p <;> rfl
@[simp] theorem State.setSessions_waiting (s : State) (p : Port) (t : List Session) : (s.setSessions p t).waiting = s.waiting := by cases p <;> rfl
@[simp] theorem State.setSessions_commitQueue (s : State) (p : Port) (t : List Session) : (s.setSessions p t).commitQueue = s.commitQueue := by cases p <;> rfl
@[simp] theorem State.setSessions_commit (s : State) (p : Port) (t : List Session) : (s.setSessions p t).commit = s.commit := by cases p <;> rfl
@[simp] theorem State.setSessions_diagQueue (s : State) (p : Port) (t : List Session) : (s.setSessions p t).diagQueue = s.diagQueue := by cases p <;> rfl
@[simp] theorem State.setSessions_scan (s : State) (p : Port) (t : List Session) : (s.setSessions p t).scan = s.scan := by cases p <;> rfl
@[simp] theorem State.setSessions_log (s : State) (p : Port) (t : List Session) : (s.setSessions p t).log = s.log := by cases p <;> rfl
@[simp] theorem State.setSessions_alert (s : State) (p : Port) (t : List Session) : (s.setSessions p t).alert = s.alert := by cases p <;> rfl
@[simp] theorem State.setSessions_arrivals (s : State) (p : Port) (t : List Session) : (s.setSessions p t).arrivals = s.arrivals := by cases p <;> rfl
@[simp] theorem State.setSessions_freeIndex (s : State) (p : Port) (t : List Session) : (s.setSessions p t).freeIndex = s.freeIndex := by cases p <;> rfl

/-! ### `setWork` -/

@[simp] theorem State.setWork_pending (s : State) (w : LoaderWork) : (s.setWork w).pending = s.pending := rfl
@[simp] theorem State.setWork_pins (s : State) (w : LoaderWork) : (s.setWork w).pins = s.pins := rfl
@[simp] theorem State.setWork_part (s : State) (w : LoaderWork) : (s.setWork w).part = s.part := rfl
@[simp] theorem State.setWork_time (s : State) (w : LoaderWork) : (s.setWork w).time = s.time := rfl
@[simp] theorem State.setWork_portA (s : State) (w : LoaderWork) : (s.setWork w).portA = s.portA := rfl
@[simp] theorem State.setWork_portB (s : State) (w : LoaderWork) : (s.setWork w).portB = s.portB := rfl
@[simp] theorem State.setWork_mem (s : State) (w : LoaderWork) : (s.setWork w).mem = s.mem := rfl
@[simp] theorem State.setWork_cycle (s : State) (w : LoaderWork) : (s.setWork w).cycle = s.cycle := rfl
@[simp] theorem State.setWork_pointer (s : State) (w : LoaderWork) : (s.setWork w).pointer = s.pointer := rfl
@[simp] theorem State.setWork_live (s : State) (w : LoaderWork) : (s.setWork w).live = s.live := rfl
@[simp] theorem State.setWork_retained (s : State) (w : LoaderWork) : (s.setWork w).retained = s.retained := rfl
@[simp] theorem State.setWork_slots (s : State) (w : LoaderWork) : (s.setWork w).slots = s.slots := rfl
@[simp] theorem State.setWork_waiting (s : State) (w : LoaderWork) : (s.setWork w).waiting = s.waiting := rfl
@[simp] theorem State.setWork_commitQueue (s : State) (w : LoaderWork) : (s.setWork w).commitQueue = s.commitQueue := rfl
@[simp] theorem State.setWork_commit (s : State) (w : LoaderWork) : (s.setWork w).commit = s.commit := rfl
@[simp] theorem State.setWork_sessionsA (s : State) (w : LoaderWork) : (s.setWork w).sessionsA = s.sessionsA := rfl
@[simp] theorem State.setWork_sessionsB (s : State) (w : LoaderWork) : (s.setWork w).sessionsB = s.sessionsB := rfl
@[simp] theorem State.setWork_diagQueue (s : State) (w : LoaderWork) : (s.setWork w).diagQueue = s.diagQueue := rfl
@[simp] theorem State.setWork_scan (s : State) (w : LoaderWork) : (s.setWork w).scan = s.scan := rfl
@[simp] theorem State.setWork_log (s : State) (w : LoaderWork) : (s.setWork w).log = s.log := rfl
@[simp] theorem State.setWork_alert (s : State) (w : LoaderWork) : (s.setWork w).alert = s.alert := rfl
@[simp] theorem State.setWork_arrivals (s : State) (w : LoaderWork) : (s.setWork w).arrivals = s.arrivals := rfl
@[simp] theorem State.setWork_freeIndex (s : State) (w : LoaderWork) : (s.setWork w).freeIndex = s.freeIndex := rfl

/-! ### `evalAlert` -/

@[simp] theorem State.evalAlert_pending (s : State)  : (s.evalAlert).pending = s.pending := rfl
@[simp] theorem State.evalAlert_pins (s : State)  : (s.evalAlert).pins = s.pins := rfl
@[simp] theorem State.evalAlert_part (s : State)  : (s.evalAlert).part = s.part := rfl
@[simp] theorem State.evalAlert_time (s : State)  : (s.evalAlert).time = s.time := rfl
@[simp] theorem State.evalAlert_portA (s : State)  : (s.evalAlert).portA = s.portA := rfl
@[simp] theorem State.evalAlert_portB (s : State)  : (s.evalAlert).portB = s.portB := rfl
@[simp] theorem State.evalAlert_mem (s : State)  : (s.evalAlert).mem = s.mem := rfl
@[simp] theorem State.evalAlert_cycle (s : State)  : (s.evalAlert).cycle = s.cycle := rfl
@[simp] theorem State.evalAlert_pointer (s : State)  : (s.evalAlert).pointer = s.pointer := rfl
@[simp] theorem State.evalAlert_ldr (s : State)  : (s.evalAlert).ldr = s.ldr := rfl
@[simp] theorem State.evalAlert_live (s : State)  : (s.evalAlert).live = s.live := rfl
@[simp] theorem State.evalAlert_retained (s : State)  : (s.evalAlert).retained = s.retained := rfl
@[simp] theorem State.evalAlert_slots (s : State)  : (s.evalAlert).slots = s.slots := rfl
@[simp] theorem State.evalAlert_waiting (s : State)  : (s.evalAlert).waiting = s.waiting := rfl
@[simp] theorem State.evalAlert_commitQueue (s : State)  : (s.evalAlert).commitQueue = s.commitQueue := rfl
@[simp] theorem State.evalAlert_commit (s : State)  : (s.evalAlert).commit = s.commit := rfl
@[simp] theorem State.evalAlert_sessionsA (s : State)  : (s.evalAlert).sessionsA = s.sessionsA := rfl
@[simp] theorem State.evalAlert_sessionsB (s : State)  : (s.evalAlert).sessionsB = s.sessionsB := rfl
@[simp] theorem State.evalAlert_diagQueue (s : State)  : (s.evalAlert).diagQueue = s.diagQueue := rfl
@[simp] theorem State.evalAlert_scan (s : State)  : (s.evalAlert).scan = s.scan := rfl
@[simp] theorem State.evalAlert_log (s : State)  : (s.evalAlert).log = s.log := rfl
@[simp] theorem State.evalAlert_arrivals (s : State)  : (s.evalAlert).arrivals = s.arrivals := rfl
@[simp] theorem State.evalAlert_freeIndex (s : State)  : (s.evalAlert).freeIndex = s.freeIndex := rfl

/-! ### `setMask` -/

@[simp] theorem State.setMask_pending (s : State) (v : Word) : (s.setMask v).pending = s.pending := rfl
@[simp] theorem State.setMask_pins (s : State) (v : Word) : (s.setMask v).pins = s.pins := rfl
@[simp] theorem State.setMask_part (s : State) (v : Word) : (s.setMask v).part = s.part := rfl
@[simp] theorem State.setMask_time (s : State) (v : Word) : (s.setMask v).time = s.time := rfl
@[simp] theorem State.setMask_portA (s : State) (v : Word) : (s.setMask v).portA = s.portA := rfl
@[simp] theorem State.setMask_portB (s : State) (v : Word) : (s.setMask v).portB = s.portB := rfl
@[simp] theorem State.setMask_mem (s : State) (v : Word) : (s.setMask v).mem = s.mem := rfl
@[simp] theorem State.setMask_cycle (s : State) (v : Word) : (s.setMask v).cycle = s.cycle := rfl
@[simp] theorem State.setMask_pointer (s : State) (v : Word) : (s.setMask v).pointer = s.pointer := rfl
@[simp] theorem State.setMask_ldr (s : State) (v : Word) : (s.setMask v).ldr = s.ldr := rfl
@[simp] theorem State.setMask_live (s : State) (v : Word) : (s.setMask v).live = s.live := rfl
@[simp] theorem State.setMask_retained (s : State) (v : Word) : (s.setMask v).retained = s.retained := rfl
@[simp] theorem State.setMask_slots (s : State) (v : Word) : (s.setMask v).slots = s.slots := rfl
@[simp] theorem State.setMask_waiting (s : State) (v : Word) : (s.setMask v).waiting = s.waiting := rfl
@[simp] theorem State.setMask_commitQueue (s : State) (v : Word) : (s.setMask v).commitQueue = s.commitQueue := rfl
@[simp] theorem State.setMask_commit (s : State) (v : Word) : (s.setMask v).commit = s.commit := rfl
@[simp] theorem State.setMask_sessionsA (s : State) (v : Word) : (s.setMask v).sessionsA = s.sessionsA := rfl
@[simp] theorem State.setMask_sessionsB (s : State) (v : Word) : (s.setMask v).sessionsB = s.sessionsB := rfl
@[simp] theorem State.setMask_diagQueue (s : State) (v : Word) : (s.setMask v).diagQueue = s.diagQueue := rfl
@[simp] theorem State.setMask_scan (s : State) (v : Word) : (s.setMask v).scan = s.scan := rfl
@[simp] theorem State.setMask_log (s : State) (v : Word) : (s.setMask v).log = s.log := rfl
@[simp] theorem State.setMask_arrivals (s : State) (v : Word) : (s.setMask v).arrivals = s.arrivals := rfl
@[simp] theorem State.setMask_freeIndex (s : State) (v : Word) : (s.setMask v).freeIndex = s.freeIndex := rfl

/-! ### `acknowledge` -/

@[simp] theorem State.acknowledge_pending (s : State) (v : Word) : (s.acknowledge v).pending = s.pending := rfl
@[simp] theorem State.acknowledge_pins (s : State) (v : Word) : (s.acknowledge v).pins = s.pins := rfl
@[simp] theorem State.acknowledge_part (s : State) (v : Word) : (s.acknowledge v).part = s.part := rfl
@[simp] theorem State.acknowledge_time (s : State) (v : Word) : (s.acknowledge v).time = s.time := rfl
@[simp] theorem State.acknowledge_portA (s : State) (v : Word) : (s.acknowledge v).portA = s.portA := rfl
@[simp] theorem State.acknowledge_portB (s : State) (v : Word) : (s.acknowledge v).portB = s.portB := rfl
@[simp] theorem State.acknowledge_mem (s : State) (v : Word) : (s.acknowledge v).mem = s.mem := rfl
@[simp] theorem State.acknowledge_cycle (s : State) (v : Word) : (s.acknowledge v).cycle = s.cycle := rfl
@[simp] theorem State.acknowledge_pointer (s : State) (v : Word) : (s.acknowledge v).pointer = s.pointer := rfl
@[simp] theorem State.acknowledge_ldr (s : State) (v : Word) : (s.acknowledge v).ldr = s.ldr := rfl
@[simp] theorem State.acknowledge_live (s : State) (v : Word) : (s.acknowledge v).live = s.live := rfl
@[simp] theorem State.acknowledge_retained (s : State) (v : Word) : (s.acknowledge v).retained = s.retained := rfl
@[simp] theorem State.acknowledge_slots (s : State) (v : Word) : (s.acknowledge v).slots = s.slots := rfl
@[simp] theorem State.acknowledge_waiting (s : State) (v : Word) : (s.acknowledge v).waiting = s.waiting := rfl
@[simp] theorem State.acknowledge_commitQueue (s : State) (v : Word) : (s.acknowledge v).commitQueue = s.commitQueue := rfl
@[simp] theorem State.acknowledge_commit (s : State) (v : Word) : (s.acknowledge v).commit = s.commit := rfl
@[simp] theorem State.acknowledge_sessionsA (s : State) (v : Word) : (s.acknowledge v).sessionsA = s.sessionsA := rfl
@[simp] theorem State.acknowledge_sessionsB (s : State) (v : Word) : (s.acknowledge v).sessionsB = s.sessionsB := rfl
@[simp] theorem State.acknowledge_diagQueue (s : State) (v : Word) : (s.acknowledge v).diagQueue = s.diagQueue := rfl
@[simp] theorem State.acknowledge_scan (s : State) (v : Word) : (s.acknowledge v).scan = s.scan := rfl
@[simp] theorem State.acknowledge_log (s : State) (v : Word) : (s.acknowledge v).log = s.log := rfl
@[simp] theorem State.acknowledge_arrivals (s : State) (v : Word) : (s.acknowledge v).arrivals = s.arrivals := rfl
@[simp] theorem State.acknowledge_freeIndex (s : State) (v : Word) : (s.acknowledge v).freeIndex = s.freeIndex := rfl

/-! ### `endHoldoff` -/

@[simp] theorem State.endHoldoff_pending (s : State)  : (s.endHoldoff).pending = s.pending := rfl
@[simp] theorem State.endHoldoff_pins (s : State)  : (s.endHoldoff).pins = s.pins := rfl
@[simp] theorem State.endHoldoff_part (s : State)  : (s.endHoldoff).part = s.part := rfl
@[simp] theorem State.endHoldoff_time (s : State)  : (s.endHoldoff).time = s.time := rfl
@[simp] theorem State.endHoldoff_portA (s : State)  : (s.endHoldoff).portA = s.portA := rfl
@[simp] theorem State.endHoldoff_portB (s : State)  : (s.endHoldoff).portB = s.portB := rfl
@[simp] theorem State.endHoldoff_mem (s : State)  : (s.endHoldoff).mem = s.mem := rfl
@[simp] theorem State.endHoldoff_cycle (s : State)  : (s.endHoldoff).cycle = s.cycle := rfl
@[simp] theorem State.endHoldoff_pointer (s : State)  : (s.endHoldoff).pointer = s.pointer := rfl
@[simp] theorem State.endHoldoff_ldr (s : State)  : (s.endHoldoff).ldr = s.ldr := rfl
@[simp] theorem State.endHoldoff_live (s : State)  : (s.endHoldoff).live = s.live := rfl
@[simp] theorem State.endHoldoff_retained (s : State)  : (s.endHoldoff).retained = s.retained := rfl
@[simp] theorem State.endHoldoff_slots (s : State)  : (s.endHoldoff).slots = s.slots := rfl
@[simp] theorem State.endHoldoff_waiting (s : State)  : (s.endHoldoff).waiting = s.waiting := rfl
@[simp] theorem State.endHoldoff_commitQueue (s : State)  : (s.endHoldoff).commitQueue = s.commitQueue := rfl
@[simp] theorem State.endHoldoff_commit (s : State)  : (s.endHoldoff).commit = s.commit := rfl
@[simp] theorem State.endHoldoff_sessionsA (s : State)  : (s.endHoldoff).sessionsA = s.sessionsA := rfl
@[simp] theorem State.endHoldoff_sessionsB (s : State)  : (s.endHoldoff).sessionsB = s.sessionsB := rfl
@[simp] theorem State.endHoldoff_diagQueue (s : State)  : (s.endHoldoff).diagQueue = s.diagQueue := rfl
@[simp] theorem State.endHoldoff_scan (s : State)  : (s.endHoldoff).scan = s.scan := rfl
@[simp] theorem State.endHoldoff_log (s : State)  : (s.endHoldoff).log = s.log := rfl
@[simp] theorem State.endHoldoff_arrivals (s : State)  : (s.endHoldoff).arrivals = s.arrivals := rfl
@[simp] theorem State.endHoldoff_freeIndex (s : State)  : (s.endHoldoff).freeIndex = s.freeIndex := rfl

/-! ### `setPending` -/

@[simp] theorem State.setPending_pending (s : State) (c : BitVec 8) : (s.setPending c).pending = s.pending := rfl
@[simp] theorem State.setPending_pins (s : State) (c : BitVec 8) : (s.setPending c).pins = s.pins := rfl
@[simp] theorem State.setPending_part (s : State) (c : BitVec 8) : (s.setPending c).part = s.part := rfl
@[simp] theorem State.setPending_time (s : State) (c : BitVec 8) : (s.setPending c).time = s.time := rfl
@[simp] theorem State.setPending_portA (s : State) (c : BitVec 8) : (s.setPending c).portA = s.portA := rfl
@[simp] theorem State.setPending_portB (s : State) (c : BitVec 8) : (s.setPending c).portB = s.portB := rfl
@[simp] theorem State.setPending_mem (s : State) (c : BitVec 8) : (s.setPending c).mem = s.mem := rfl
@[simp] theorem State.setPending_cycle (s : State) (c : BitVec 8) : (s.setPending c).cycle = s.cycle := rfl
@[simp] theorem State.setPending_pointer (s : State) (c : BitVec 8) : (s.setPending c).pointer = s.pointer := rfl
@[simp] theorem State.setPending_ldr (s : State) (c : BitVec 8) : (s.setPending c).ldr = s.ldr := rfl
@[simp] theorem State.setPending_live (s : State) (c : BitVec 8) : (s.setPending c).live = s.live := rfl
@[simp] theorem State.setPending_retained (s : State) (c : BitVec 8) : (s.setPending c).retained = s.retained := rfl
@[simp] theorem State.setPending_slots (s : State) (c : BitVec 8) : (s.setPending c).slots = s.slots := rfl
@[simp] theorem State.setPending_waiting (s : State) (c : BitVec 8) : (s.setPending c).waiting = s.waiting := rfl
@[simp] theorem State.setPending_commitQueue (s : State) (c : BitVec 8) : (s.setPending c).commitQueue = s.commitQueue := rfl
@[simp] theorem State.setPending_commit (s : State) (c : BitVec 8) : (s.setPending c).commit = s.commit := rfl
@[simp] theorem State.setPending_sessionsA (s : State) (c : BitVec 8) : (s.setPending c).sessionsA = s.sessionsA := rfl
@[simp] theorem State.setPending_sessionsB (s : State) (c : BitVec 8) : (s.setPending c).sessionsB = s.sessionsB := rfl
@[simp] theorem State.setPending_diagQueue (s : State) (c : BitVec 8) : (s.setPending c).diagQueue = s.diagQueue := rfl
@[simp] theorem State.setPending_scan (s : State) (c : BitVec 8) : (s.setPending c).scan = s.scan := rfl
@[simp] theorem State.setPending_log (s : State) (c : BitVec 8) : (s.setPending c).log = s.log := rfl
@[simp] theorem State.setPending_arrivals (s : State) (c : BitVec 8) : (s.setPending c).arrivals = s.arrivals := rfl
@[simp] theorem State.setPending_freeIndex (s : State) (c : BitVec 8) : (s.setPending c).freeIndex = s.freeIndex := rfl

/-! ### `mapRegions` -/

@[simp] theorem State.mapRegions_pending (s : State) (f : Region → Region) : (s.mapRegions f).pending = s.pending := rfl
@[simp] theorem State.mapRegions_pins (s : State) (f : Region → Region) : (s.mapRegions f).pins = s.pins := rfl
@[simp] theorem State.mapRegions_part (s : State) (f : Region → Region) : (s.mapRegions f).part = s.part := rfl
@[simp] theorem State.mapRegions_time (s : State) (f : Region → Region) : (s.mapRegions f).time = s.time := rfl
@[simp] theorem State.mapRegions_portA (s : State) (f : Region → Region) : (s.mapRegions f).portA = s.portA := rfl
@[simp] theorem State.mapRegions_portB (s : State) (f : Region → Region) : (s.mapRegions f).portB = s.portB := rfl
@[simp] theorem State.mapRegions_mem (s : State) (f : Region → Region) : (s.mapRegions f).mem = s.mem := rfl
@[simp] theorem State.mapRegions_cycle (s : State) (f : Region → Region) : (s.mapRegions f).cycle = s.cycle := rfl
@[simp] theorem State.mapRegions_pointer (s : State) (f : Region → Region) : (s.mapRegions f).pointer = s.pointer := rfl
@[simp] theorem State.mapRegions_ldr (s : State) (f : Region → Region) : (s.mapRegions f).ldr = s.ldr := rfl
@[simp] theorem State.mapRegions_retained (s : State) (f : Region → Region) : (s.mapRegions f).retained = s.retained := rfl
@[simp] theorem State.mapRegions_slots (s : State) (f : Region → Region) : (s.mapRegions f).slots = s.slots := rfl
@[simp] theorem State.mapRegions_waiting (s : State) (f : Region → Region) : (s.mapRegions f).waiting = s.waiting := rfl
@[simp] theorem State.mapRegions_commitQueue (s : State) (f : Region → Region) : (s.mapRegions f).commitQueue = s.commitQueue := rfl
@[simp] theorem State.mapRegions_commit (s : State) (f : Region → Region) : (s.mapRegions f).commit = s.commit := rfl
@[simp] theorem State.mapRegions_sessionsA (s : State) (f : Region → Region) : (s.mapRegions f).sessionsA = s.sessionsA := rfl
@[simp] theorem State.mapRegions_sessionsB (s : State) (f : Region → Region) : (s.mapRegions f).sessionsB = s.sessionsB := rfl
@[simp] theorem State.mapRegions_diagQueue (s : State) (f : Region → Region) : (s.mapRegions f).diagQueue = s.diagQueue := rfl
@[simp] theorem State.mapRegions_scan (s : State) (f : Region → Region) : (s.mapRegions f).scan = s.scan := rfl
@[simp] theorem State.mapRegions_log (s : State) (f : Region → Region) : (s.mapRegions f).log = s.log := rfl
@[simp] theorem State.mapRegions_alert (s : State) (f : Region → Region) : (s.mapRegions f).alert = s.alert := rfl
@[simp] theorem State.mapRegions_arrivals (s : State) (f : Region → Region) : (s.mapRegions f).arrivals = s.arrivals := rfl
@[simp] theorem State.mapRegions_freeIndex (s : State) (f : Region → Region) : (s.mapRegions f).freeIndex = s.freeIndex := rfl

/-! ### `updRegion` -/

@[simp] theorem State.updRegion_pending (s : State) (r : Fin 64) (f : Region → Region) : (s.updRegion r f).pending = s.pending := by unfold State.updRegion; split <;> rfl
@[simp] theorem State.updRegion_pins (s : State) (r : Fin 64) (f : Region → Region) : (s.updRegion r f).pins = s.pins := by unfold State.updRegion; split <;> rfl
@[simp] theorem State.updRegion_part (s : State) (r : Fin 64) (f : Region → Region) : (s.updRegion r f).part = s.part := by unfold State.updRegion; split <;> rfl
@[simp] theorem State.updRegion_time (s : State) (r : Fin 64) (f : Region → Region) : (s.updRegion r f).time = s.time := by unfold State.updRegion; split <;> rfl
@[simp] theorem State.updRegion_portA (s : State) (r : Fin 64) (f : Region → Region) : (s.updRegion r f).portA = s.portA := by unfold State.updRegion; split <;> rfl
@[simp] theorem State.updRegion_portB (s : State) (r : Fin 64) (f : Region → Region) : (s.updRegion r f).portB = s.portB := by unfold State.updRegion; split <;> rfl
@[simp] theorem State.updRegion_mem (s : State) (r : Fin 64) (f : Region → Region) : (s.updRegion r f).mem = s.mem := by unfold State.updRegion; split <;> rfl
@[simp] theorem State.updRegion_cycle (s : State) (r : Fin 64) (f : Region → Region) : (s.updRegion r f).cycle = s.cycle := by unfold State.updRegion; split <;> rfl
@[simp] theorem State.updRegion_pointer (s : State) (r : Fin 64) (f : Region → Region) : (s.updRegion r f).pointer = s.pointer := by unfold State.updRegion; split <;> rfl
@[simp] theorem State.updRegion_ldr (s : State) (r : Fin 64) (f : Region → Region) : (s.updRegion r f).ldr = s.ldr := by unfold State.updRegion; split <;> rfl
@[simp] theorem State.updRegion_retained (s : State) (r : Fin 64) (f : Region → Region) : (s.updRegion r f).retained = s.retained := by unfold State.updRegion; split <;> rfl
@[simp] theorem State.updRegion_slots (s : State) (r : Fin 64) (f : Region → Region) : (s.updRegion r f).slots = s.slots := by unfold State.updRegion; split <;> rfl
@[simp] theorem State.updRegion_waiting (s : State) (r : Fin 64) (f : Region → Region) : (s.updRegion r f).waiting = s.waiting := by unfold State.updRegion; split <;> rfl
@[simp] theorem State.updRegion_commitQueue (s : State) (r : Fin 64) (f : Region → Region) : (s.updRegion r f).commitQueue = s.commitQueue := by unfold State.updRegion; split <;> rfl
@[simp] theorem State.updRegion_commit (s : State) (r : Fin 64) (f : Region → Region) : (s.updRegion r f).commit = s.commit := by unfold State.updRegion; split <;> rfl
@[simp] theorem State.updRegion_sessionsA (s : State) (r : Fin 64) (f : Region → Region) : (s.updRegion r f).sessionsA = s.sessionsA := by unfold State.updRegion; split <;> rfl
@[simp] theorem State.updRegion_sessionsB (s : State) (r : Fin 64) (f : Region → Region) : (s.updRegion r f).sessionsB = s.sessionsB := by unfold State.updRegion; split <;> rfl
@[simp] theorem State.updRegion_diagQueue (s : State) (r : Fin 64) (f : Region → Region) : (s.updRegion r f).diagQueue = s.diagQueue := by unfold State.updRegion; split <;> rfl
@[simp] theorem State.updRegion_scan (s : State) (r : Fin 64) (f : Region → Region) : (s.updRegion r f).scan = s.scan := by unfold State.updRegion; split <;> rfl
@[simp] theorem State.updRegion_log (s : State) (r : Fin 64) (f : Region → Region) : (s.updRegion r f).log = s.log := by unfold State.updRegion; split <;> rfl
@[simp] theorem State.updRegion_alert (s : State) (r : Fin 64) (f : Region → Region) : (s.updRegion r f).alert = s.alert := by unfold State.updRegion; split <;> rfl
@[simp] theorem State.updRegion_arrivals (s : State) (r : Fin 64) (f : Region → Region) : (s.updRegion r f).arrivals = s.arrivals := by unfold State.updRegion; split <;> rfl
@[simp] theorem State.updRegion_freeIndex (s : State) (r : Fin 64) (f : Region → Region) : (s.updRegion r f).freeIndex = s.freeIndex := by unfold State.updRegion; split <;> rfl

/-! ## What an update does -/

@[simp] theorem State.port_setPort_self (s : State) (p : Port) (r : PortRec) : (s.setPort p r).port p = r := by
  cases p <;> rfl

@[simp] theorem State.port_setPort_other (s : State) (p : Port) (r : PortRec) :
    (s.setPort p r).port p.other = s.port p.other := by cases p <;> rfl

theorem State.port_setPort (s : State) (p q : Port) (r : PortRec) :
    (s.setPort p r).port q = if p = q then r else s.port q := by cases p <;> cases q <;> rfl

@[simp] theorem State.setPort_setPort (s : State) (p : Port) (r r' : PortRec) :
    (s.setPort p r).setPort p r' = s.setPort p r' := by cases p <;> rfl

@[simp] theorem State.port_endAccess_self (s : State) (p : Port) (d : Option Word) :
    (s.endAccess p d).port p = { s.port p with access := none, driven := (s.port p).drives d } := by cases p <;> rfl

@[simp] theorem PortRec.drives_none (r : PortRec) : r.drives none = none := by cases h : r.strobes <;> simp [PortRec.drives]

theorem PortRec.drives_of_strobes {r : PortRec} (h : r.strobes = true) (d : Option Word) : r.drives d = d := by
  simp [PortRec.drives, h]

@[simp] theorem State.port_strobe_self (s : State) (p : Port) :
    (s.strobe p).port p = { s.port p with strobes := true } := by cases p <;> rfl

@[simp] theorem State.port_strobe_other (s : State) (p : Port) : (s.strobe p).port p.other = s.port p.other := by
  cases p <;> rfl

@[simp] theorem State.port_liftStrobes_self (s : State) (p : Port) :
    (s.liftStrobes p).port p = { s.port p with strobes := false, driven := none } := by cases p <;> rfl

@[simp] theorem State.port_liftStrobes_other (s : State) (p : Port) :
    (s.liftStrobes p).port p.other = s.port p.other := by cases p <;> rfl

@[simp] theorem State.sessions_setSessions_self (s : State) (p : Port) (t : List Session) :
    (s.setSessions p t).sessions p = t := by cases p <;> rfl

@[simp] theorem State.sessions_setSessions_other (s : State) (p : Port) (t : List Session) :
    (s.setSessions p t).sessions p.other = s.sessions p.other := by cases p <;> rfl

@[simp] theorem State.setSlot_slots (s : State) (k : Fin 12) (x : Slot) :
    (s.setSlot k x).slots = s.slots.set k x := rfl

theorem State.slots_setSlot_get (s : State) (k j : Fin 12) (x : Slot) :
    (s.setSlot k x).slots[j] = if k = j then x else s.slots[j] := by
  simp [Vector.getElem_set, Fin.ext_iff]

/-- `setPort` on a given port is the record update of that port. -/
theorem State.setPort_a (s : State) (r : PortRec) : s.setPort .a r = { s with portA := r } := rfl

theorem State.setPort_b (s : State) (r : PortRec) : s.setPort .b r = { s with portB := r } := rfl

@[simp] theorem Port.other_other (p : Port) : p.other.other = p := by cases p <;> rfl

theorem Port.other_ne (p : Port) : p.other ≠ p := by cases p <;> decide

/-! ## Regions -/

@[simp] theorem State.updRegion_live (s : State) (r : Fin 64) (f : Region → Region) :
    (s.updRegion r f).live =
      s.live.map fun l => { l with regions := l.regions.set r (l.regions[r].map f) } := by
  unfold State.updRegion; split <;> simp_all

theorem State.updRegion_updRegion (s : State) (r : Fin 64) (f g : Region → Region) :
    (s.updRegion r f).updRegion r g = s.updRegion r fun x => g (f x) := by
  cases h : s.live <;> simp [State.updRegion, h, Function.comp_def]

theorem State.region?_updRegion (s : State) (r q : Fin 64) (f : Region → Region) :
    (s.updRegion r f).region? q = if r = q then (s.region? q).map f else s.region? q := by
  unfold State.region?
  rw [State.updRegion_live]
  cases s.live with
  | none => simp
  | some l =>
    simp only [Option.map_some, Fin.getElem_fin, Vector.getElem_set, Fin.ext_iff]
    split <;> simp_all

theorem State.region?_mapRegions (s : State) (q : Fin 64) (f : Region → Region) :
    (s.mapRegions f).region? q = (s.region? q).map f := by
  unfold State.region? State.mapRegions
  cases s.live with
  | none => rfl
  | some l => simp [Live.mapRegions]

/-- A region keeps its place and length under an update that keeps its entry. -/
theorem State.regionCovers_updRegion (s : State) (r q : Fin 64) (f : Region → Region) (a : Addr)
    (h : ∀ x, (f x).entry = x.entry) : (s.updRegion r f).regionCovers q a = s.regionCovers q a := by
  unfold State.regionCovers
  rw [State.region?_updRegion]
  by_cases hq : r = q
  · rw [if_pos hq]; cases s.region? q <;> simp [h]
  · rw [if_neg hq]

/-! ## Computed views: each depends on the fields that own its state alone -/

theorem State.region?_of_live {s t : State} (h : t.live = s.live) (r : Fin 64) : t.region? r = s.region? r := by
  unfold State.region?; rw [h]

theorem State.regionCovers_of_live {s t : State} (h : t.live = s.live) (r : Fin 64) (a : Addr) :
    t.regionCovers r a = s.regionCovers r a := by
  unfold State.regionCovers; rw [State.region?_of_live h]

theorem State.regionAt_of_live {s t : State} (h : t.live = s.live) (a : Addr) : t.regionAt a = s.regionAt a := by
  unfold State.regionAt; simp only [State.regionCovers_of_live h]

theorem State.committing_of_live {s t : State} (h : t.live = s.live) (r : Fin 64) :
    t.committing r = s.committing r := by
  unfold State.committing; rw [State.region?_of_live h]

theorem State.condition_of_live {s t : State} (h : t.live = s.live) (c : Nat) : t.condition c = s.condition c := by
  unfold State.condition; rw [h]

theorem State.slotIn_of_slots {s t : State} (h : t.slots = s.slots) (st : SlotState) (r : Fin 64) :
    t.slotIn st r = s.slotIn st r := by
  unfold State.slotIn; rw [h]

theorem State.freeSlot_of_slots {s t : State} (h : t.slots = s.slots) : t.freeSlot = s.freeSlot := by
  unfold State.freeSlot; rw [h]

theorem State.holdsSealedAndCommitting_of_slots {s t : State} (h : t.slots = s.slots) (r : Fin 64) :
    t.holdsSealedAndCommitting r = s.holdsSealedAndCommitting r := by
  unfold State.holdsSealedAndCommitting State.sealedLink State.committingLink
  rw [State.slotIn_of_slots h, State.slotIn_of_slots h]

theorem State.stageCause_of_slots {s t : State} (h : t.slots = s.slots) (r : Fin 64) (k : StageAsk) :
    t.stageCause r k = s.stageCause r k := by
  unfold State.stageCause
  cases k
  · rw [State.holdsSealedAndCommitting_of_slots h]
  · rfl

theorem State.stagedValue_of_slots {s t : State} (h : t.slots = s.slots) (r : Fin 64) (off : Nat) :
    t.stagedValue r off = s.stagedValue r off := by
  unfold State.stagedValue State.slotValue State.fillingLink State.sealedLink State.committingLink
  simp only [State.slotIn_of_slots h, h]

theorem State.sessions_of_tables {s t : State} (ha : t.sessionsA = s.sessionsA) (hb : t.sessionsB = s.sessionsB)
    (p : Port) : t.sessions p = s.sessions p := by
  cases p
  · exact ha
  · exact hb

theorem State.sessionLink_of_parts {s t : State} (hl : t.live = s.live) (ha : t.sessionsA = s.sessionsA)
    (hb : t.sessionsB = s.sessionsB) (r : Fin 64) : t.sessionLink r = s.sessionLink r := by
  unfold State.sessionLink
  rw [State.region?_of_live hl]
  cases s.region? r with
  | none => rfl
  | some x => simp only [State.sessions_of_tables ha hb]

theorem State.deferring_of_parts {s t : State} (hl : t.live = s.live) (hs : t.slots = s.slots)
    (ha : t.sessionsA = s.sessionsA) (hb : t.sessionsB = s.sessionsB) (r : Fin 64) :
    t.deferring r = s.deferring r := by
  unfold State.deferring State.sealedLink
  rw [State.region?_of_live hl, State.sessionLink_of_parts hl ha hb, State.slotIn_of_slots hs]

end Sys2Proof.Machine
end

