-- ==== Sys2Proof/Laws/Ops.lean ====
section
/-! SUPPORT. One lemma for each shared operation that says once all that it can change: the state after it is the state before
with the named fields at other values. Frames and invariants follow from these without unfolding an operation again. -/

namespace Sys2Proof.Machine

/-! ## Ports, regions, sessions -/

theorem State.setPort_only (s : State) (p : Port) (r : PortRec) :
    ∃ a b, s.setPort p r = { s with portA := a, portB := b } := by
  cases p <;> exact ⟨_, _, rfl⟩

theorem State.updAccess_only (s : State) (p : Port) (f : Access → Access) :
    ∃ a b, s.updAccess p f = { s with portA := a, portB := b } := s.setPort_only p _

theorem State.endAccess_only (s : State) (p : Port) (d : Option Word) :
    ∃ a b, s.endAccess p d = { s with portA := a, portB := b } := s.setPort_only p _

theorem State.hold_only (s : State) (p : Port) (c : WaitCause) (k : AccessClass) :
    ∃ a b, s.hold p c k = { s with portA := a, portB := b } := s.updAccess_only p _

theorem State.updRegion_only (s : State) (r : Fin 64) (f : Region → Region) :
    ∃ l, s.updRegion r f = { s with live := l } := by
  unfold State.updRegion; split <;> exact ⟨_, rfl⟩

theorem State.setSessions_only (s : State) (p : Port) (t : List Session) :
    ∃ a b, s.setSessions p t = { s with sessionsA := a, sessionsB := b } := by
  cases p <;> exact ⟨_, _, rfl⟩

theorem State.breakSession_only (s : State) (r : Fin 64) :
    ∃ a b, s.breakSession r = { s with sessionsA := a, sessionsB := b } := by
  unfold State.breakSession
  split
  · exact s.setSessions_only _ _
  · exact ⟨_, _, rfl⟩

/-! ## The Fault Log, the Record Writer and the alert -/

theorem State.takeItem_only (s : State) : ∃ l, s.takeItem = { s with log := l } := by
  unfold State.takeItem; split <;> exact ⟨_, rfl⟩

/-- While the Record Writer holds an item, one that joins the queue waits at its tail. -/
theorem State.enqueue_of_busy {s : State} (i : Item) (h : s.log.inHand.isSome = true) :
    s.enqueue i = { s with log := { s.log with queue := s.log.queue ++ [i] } } := by
  obtain ⟨x, hx⟩ := Option.isSome_iff_exists.1 h
  unfold State.enqueue State.takeItem
  cases s.part <;> simp only [hx]

/-- Outside PFAIL an item that comes to an empty queue and an idle Record Writer is taken in hand. -/
theorem State.enqueue_of_idle {s : State} (i : Item) (hp : s.part ≠ .pfail) (hh : s.log.inHand = none)
    (hq : s.log.queue = []) :
    s.enqueue i = { s with log := { s.log with inHand := some (i.begin s.log.producer) } } := by
  unfold State.enqueue State.takeItem
  cases hc : s.part <;> simp_all

theorem State.enqueue_only (s : State) (i : Item) : ∃ l, s.enqueue i = { s with log := l } := by
  unfold State.enqueue
  obtain ⟨l, h⟩ := State.takeItem_only { s with log := { s.log with queue := s.log.queue ++ [i] } }
  exact ⟨l, h⟩

theorem State.endItem_only (s : State) : ∃ l, s.endItem = { s with log := l } := by
  unfold State.endItem
  obtain ⟨l, h⟩ := State.takeItem_only { s with log := { s.log with inHand := none } }
  exact ⟨l, h⟩

theorem State.raise_only (s : State) (d : FaultDetail) : ∃ l a, s.raise d = { s with log := l, alert := a } := by
  unfold State.raise
  split
  · obtain ⟨l, h⟩ := State.enqueue_only { s with log := { s.log with nextSeq := s.log.nextSeq + 1 } }
      (.record { seq := s.log.nextSeq, time := s.time, detail := d })
    simp only [h]; exact ⟨_, _, rfl⟩
  · exact ⟨_, _, rfl⟩

theorem State.writerAdvance_only (s : State) (w : Word) : ∃ l, s.writerAdvance w = { s with log := l } := by
  unfold State.writerAdvance
  split
  · split
    · exact ⟨_, rfl⟩
    · obtain ⟨l, h⟩ := State.endItem_only { s with log := { s.log with producer := s.log.producer + 1 } }
      exact ⟨l, h⟩
  · split
    · exact ⟨_, rfl⟩
    · exact ⟨_, rfl⟩
    · exact ⟨_, rfl⟩
    · exact s.endItem_only
  · exact s.endItem_only
  · exact ⟨_, rfl⟩

theorem State.withdrawTorn_only (s : State) (b : Addr) : ∃ l, s.withdrawTorn b = { s with log := l } := by
  unfold State.withdrawTorn
  obtain ⟨l, h⟩ := State.endItem_only
    { s with log := { s.log with queue := s.log.queue.filter fun i => !i.isTornOf b } }
  simp only [h]
  split <;> exact ⟨_, rfl⟩

theorem State.handWriteBack_only (s : State) (r : Fin 64) (n : Word) :
    ∃ l, s.handWriteBack r n = { s with log := l } := by
  unfold State.handWriteBack
  split
  · exact ⟨_, rfl⟩
  · exact s.enqueue_only _

/-! ## Deferral -/

theorem State.noteDeferral_only (s : State) (r : Fin 64) : ∃ l, s.noteDeferral r = { s with live := l } :=
  s.updRegion_only r _

theorem State.expireHold_only (s : State) (r : Fin 64) :
    ∃ l a b, s.expireHold r = { s with live := l, sessionsA := a, sessionsB := b } := by
  unfold State.expireHold
  obtain ⟨a, b, h⟩ := s.breakSession_only r
  obtain ⟨l, h'⟩ := (s.breakSession r).updRegion_only r fun x => { x with holdTimer := none }
  rw [h', h]; exact ⟨_, _, _, rfl⟩

/-! ## The Stage Pool -/

theorem State.waitForSlot_only (s : State) (p : Port) (r : Fin 64) (k : StageAsk) (v : Word) :
    ∃ w a b, s.waitForSlot p r k v = { s with waiting := w, portA := a, portB := b } := by
  unfold State.waitForSlot
  cases p <;> exact ⟨_, _, _, rfl⟩

theorem State.sealAs_only (s : State) (k : Fin 12) (r : Fin 64) (ws : List (Nat × Word)) :
    ∃ x q l, s.sealAs k r ws = { s with slots := x, commitQueue := q, live := l } := by
  unfold State.sealAs
  obtain ⟨l, h⟩ := State.noteDeferral_only
    { s.setSlot k { state := .sealed, region := some r, words := ws } with
      commitQueue := s.commitQueue ++ [k] } r
  rw [h]; exact ⟨_, _, _, rfl⟩

theorem State.giveSlot_only (s : State) (k : Fin 12) (r : Fin 64) (q : StageAsk) (v : Word) :
    ∃ x c l, s.giveSlot k r q v = { s with slots := x, commitQueue := c, live := l } := by
  unfold State.giveSlot
  split
  · exact ⟨_, _, _, rfl⟩
  · exact ⟨_, _, _, rfl⟩
  · exact s.sealAs_only _ _ _
  · exact s.sealAs_only _ _ _
  · exact ⟨_, _, _, rfl⟩

theorem State.serveEntry_only (s : State) (e : WaitEntry) :
    ∃ w x q l a b,
      s.serveEntry e = { s with waiting := w, slots := x, commitQueue := q, live := l, portA := a, portB := b } := by
  unfold State.serveEntry
  split
  · rename_i k _ _
    obtain ⟨x, q, l, h⟩ := State.giveSlot_only { s with waiting := s.waiting.filter fun w => w.port != e.port } k
      e.region e.ask e.value
    rw [h]
    obtain ⟨a, b, h'⟩ := State.endAccess_only
      { { s with waiting := s.waiting.filter fun w => w.port != e.port } with slots := x, commitQueue := q, live := l }
      e.port none
    rw [h']; exact ⟨_, _, _, _, _, _, rfl⟩
  · obtain ⟨a, b, h⟩ := s.hold_only e.port (s.stageCause e.region e.ask) .ownerWrite
    rw [h]; exact ⟨_, _, _, _, _, _, rfl⟩

theorem serveList_only (es : List WaitEntry) (s : State) :
    ∃ w x q l a b,
      serveList es s = { s with waiting := w, slots := x, commitQueue := q, live := l, portA := a, portB := b } := by
  induction es generalizing s with
  | nil => exact ⟨_, _, _, _, _, _, rfl⟩
  | cons e rest ih =>
    obtain ⟨w, x, q, l, a, b, h⟩ := s.serveEntry_only e
    obtain ⟨w', x', q', l', a', b', h'⟩ := ih (s.serveEntry e)
    unfold serveList
    rw [h', h]; exact ⟨_, _, _, _, _, _, rfl⟩

theorem State.serveWaiting_only (s : State) :
    ∃ w x q l a b,
      s.serveWaiting = { s with waiting := w, slots := x, commitQueue := q, live := l, portA := a, portB := b } :=
  serveList_only s.waiting s

theorem State.ownerBodyWrite_only (s : State) (p : Port) (r : Fin 64) (off : Nat) (v : Word) :
    ∃ w x a b, s.ownerBodyWrite p r off v = { s with waiting := w, slots := x, portA := a, portB := b } := by
  unfold State.ownerBodyWrite
  split
  · cases p <;> exact ⟨_, _, _, _, rfl⟩
  · split
    · obtain ⟨w, a, b, h⟩ := s.waitForSlot_only p r (.body off) v
      rw [h]; exact ⟨_, _, _, _, rfl⟩
    · split
      · cases p <;> exact ⟨_, _, _, _, rfl⟩
      · obtain ⟨w, a, b, h⟩ := s.waitForSlot_only p r (.body off) v
        rw [h]; exact ⟨_, _, _, _, rfl⟩

theorem State.ownerSeal_only (s : State) (p : Port) (r : Fin 64) :
    ∃ w x q l a b,
      s.ownerSeal p r = { s with waiting := w, slots := x, commitQueue := q, live := l, portA := a, portB := b } := by
  unfold State.ownerSeal
  split
  · rename_i f _ _
    obtain ⟨x, q, l, h⟩ := s.sealAs_only f r s.slots[f].words
    rw [h]
    cases p <;> exact ⟨_, _, _, _, _, _, rfl⟩
  · rename_i f k _ _
    obtain ⟨w, x, q, l, a, b, h⟩ := State.serveWaiting_only
      (((s.setSlot k { s.slots[k] with words := mergeWords s.slots[k].words s.slots[f].words }).setSlot f
        Slot.empty).endAccess p none)
    rw [h]
    cases p <;> exact ⟨_, _, _, _, _, _, rfl⟩
  · cases p <;> exact ⟨_, _, _, _, _, _, rfl⟩
  · split
    · rename_i k _
      obtain ⟨x, q, l, h⟩ := s.sealAs_only k r []
      rw [h]
      cases p <;> exact ⟨_, _, _, _, _, _, rfl⟩
    · obtain ⟨w, a, b, h⟩ := s.waitForSlot_only p r .seal 0#16
      rw [h]; exact ⟨_, _, _, _, _, _, rfl⟩

theorem State.ownerBodyRead_only (s : State) (p : Port) (r : Fin 64) (off : Nat) :
    ∃ a b, s.ownerBodyRead p r off = { s with portA := a, portB := b } := by
  unfold State.ownerBodyRead
  split
  · exact s.endAccess_only _ _
  · exact s.hold_only _ _ _

theorem State.discardFilling_only (s : State) (r : Fin 64) :
    ∃ x l a, s.discardFilling r = { s with slots := x, log := l, alert := a } := by
  unfold State.discardFilling
  split
  · rename_i k x _ _
    obtain ⟨l, a, h⟩ := (s.setSlot k Slot.empty).raise_only (.stage r x.entry.tag s.slots[k].words.length)
    rw [h]; exact ⟨_, _, _, rfl⟩
  · exact ⟨_, _, _, rfl⟩

theorem foldl_discardFilling_only (rs : List (Fin 64)) (s : State) :
    ∃ x l a, rs.foldl State.discardFilling s = { s with slots := x, log := l, alert := a } := by
  induction rs generalizing s with
  | nil => exact ⟨_, _, _, rfl⟩
  | cons r rest ih =>
    obtain ⟨x, l, a, h⟩ := s.discardFilling_only r
    obtain ⟨x', l', a', h'⟩ := ih (s.discardFilling r)
    rw [List.foldl_cons, h', h]; exact ⟨_, _, _, rfl⟩

theorem State.discardAllFilling_only (s : State) :
    ∃ x l a, s.discardAllFilling = { s with slots := x, log := l, alert := a } :=
  foldl_discardFilling_only _ s

theorem holdAllOnLoad_only (es : List WaitEntry) (s : State) :
    ∃ a b, holdAllOnLoad es s = { s with portA := a, portB := b } := by
  induction es generalizing s with
  | nil => exact ⟨_, _, rfl⟩
  | cons e rest ih =>
    obtain ⟨a, b, h⟩ := s.hold_only e.port .load .unclassed
    obtain ⟨a', b', h'⟩ := ih (s.hold e.port .load .unclassed)
    unfold holdAllOnLoad
    rw [h', h]; exact ⟨_, _, rfl⟩

theorem State.withdrawWaiting_only (s : State) :
    ∃ w a b, s.withdrawWaiting = { s with waiting := w, portA := a, portB := b } := by
  unfold State.withdrawWaiting
  obtain ⟨a, b, h⟩ := holdAllOnLoad_only s.waiting { s with waiting := [] }
  rw [h]; exact ⟨_, _, _, rfl⟩

/-! ## The Session Tables -/

theorem State.ownerHeaderRead_only (s : State) (p : Port) (r : Fin 64) :
    ∃ a b, s.ownerHeaderRead p r = { s with portA := a, portB := b } := by
  unfold State.ownerHeaderRead
  split
  · exact s.endAccess_only _ _
  · exact ⟨_, _, rfl⟩

theorem State.evict_only (s : State) (p : Port) :
    ∃ l a b, s.evict p = { s with live := l, sessionsA := a, sessionsB := b } := by
  unfold State.evict
  split
  · exact ⟨_, _, _, rfl⟩
  · rename_i e rest _
    split
    · obtain ⟨l, h⟩ := (s.setSessions p rest).noteDeferral_only e.region
      obtain ⟨a, b, h'⟩ := s.setSessions_only p rest
      rw [h, h']; exact ⟨_, _, _, rfl⟩
    · exact ⟨_, _, _, rfl⟩

theorem State.openSession_only (s : State) (p : Port) (r : Fin 64) :
    ∃ l a b, s.openSession p r = { s with live := l, sessionsA := a, sessionsB := b } := by
  unfold State.openSession
  obtain ⟨l, h⟩ := (s.setSessions p (s.sessions p ++ [{ region := r, state := .open }])).noteDeferral_only r
  obtain ⟨a, b, h'⟩ := s.setSessions_only p (s.sessions p ++ [{ region := r, state := .open }])
  rw [h, h']; exact ⟨_, _, _, rfl⟩

theorem State.closeSession_only (s : State) (p : Port) (r : Fin 64) :
    ∃ l a b, s.closeSession p r = { s with live := l, sessionsA := a, sessionsB := b } := by
  unfold State.closeSession
  obtain ⟨l, h⟩ := (s.setSessions p ((s.sessions p).filter fun e => e.region != r)).noteDeferral_only r
  obtain ⟨a, b, h'⟩ := s.setSessions_only p ((s.sessions p).filter fun e => e.region != r)
  rw [h, h']; exact ⟨_, _, _, rfl⟩

theorem State.takeReaderHeader_only (s : State) (p : Port) (r : Fin 64) :
    ∃ l a b x y, s.takeReaderHeader p r =
      { s with live := l, sessionsA := a, sessionsB := b, portA := x, portB := y } := by
  unfold State.takeReaderHeader
  split
  · rename_i x _
    split
    · rename_i e _
      obtain ⟨l, a, b, h⟩ := s.closeSession_only p r
      obtain ⟨c, d, h'⟩ := (s.closeSession p r).endAccess_only p (some (x.readValue (closeResult e x.header) false))
      rw [h', h]; exact ⟨_, _, _, _, _, rfl⟩
    · obtain ⟨l, a, b, h⟩ := s.evict_only p
      obtain ⟨l', a', b', h'⟩ := (s.evict p).openSession_only p r
      obtain ⟨c, d, h''⟩ := ((s.evict p).openSession p r).endAccess_only p (some (x.readValue .open false))
      rw [h'', h', h]; exact ⟨_, _, _, _, _, rfl⟩
  · exact ⟨_, _, _, _, _, rfl⟩

theorem State.readerHeaderRead_only (s : State) (p : Port) (r : Fin 64) :
    ∃ l a b x y, s.readerHeaderRead p r =
      { s with live := l, sessionsA := a, sessionsB := b, portA := x, portB := y } := by
  unfold State.readerHeaderRead
  split
  · obtain ⟨a, b, h⟩ := s.hold_only p .commit (.readerHeader r)
    rw [h]; exact ⟨_, _, _, _, _, rfl⟩
  · exact s.takeReaderHeader_only p r

theorem State.releaseReader_only (s : State) (p : Port) (r : Fin 64) :
    ∃ l a b x y, s.releaseReader p r =
      { s with live := l, sessionsA := a, sessionsB := b, portA := x, portB := y } := by
  unfold State.releaseReader
  split
  · split
    · exact s.takeReaderHeader_only p r
    · split
      · obtain ⟨a, b, h⟩ := s.hold_only p .arbiter (.readerBody r)
        rw [h]; exact ⟨_, _, _, _, _, rfl⟩
      · exact ⟨_, _, _, _, _, rfl⟩
  · exact ⟨_, _, _, _, _, rfl⟩

theorem State.withdrawReader_only (s : State) (p : Port) (r : Fin 64) :
    ∃ a b, s.withdrawReader p r = { s with portA := a, portB := b } := by
  unfold State.withdrawReader
  split
  · split
    · exact s.hold_only _ _ _
    · exact ⟨_, _, rfl⟩
  · exact ⟨_, _, rfl⟩

theorem State.commitWaitToLoad_only (s : State) (p : Port) :
    ∃ a b, s.commitWaitToLoad p = { s with portA := a, portB := b } := by
  unfold State.commitWaitToLoad
  split
  · split
    · exact s.hold_only _ _ _
    · exact ⟨_, _, rfl⟩
  · exact ⟨_, _, rfl⟩

/-! ## The Deadline Unit -/

theorem State.raiseLongest_only (s : State) (r : Fin 64) (x : Region) (ms : Nat) :
    ∃ l g, s.raiseLongest r x ms = { s with live := l, log := g } := by
  unfold State.raiseLongest
  simp only
  split
  · obtain ⟨l, h⟩ := s.updRegion_only r fun y => { y with longest := ms }
    exact ⟨l, _, h⟩
  · obtain ⟨l, h⟩ := s.updRegion_only r fun y =>
      { y with longest := ms, proposed := learnedPeriod ms (s.ldr.margin.getD 0) }
    rw [h]
    obtain ⟨g, h'⟩ := State.handWriteBack_only { s with live := l } r
      (BitVec.ofNat 16 (learnedPeriod ms (s.ldr.margin.getD 0)))
    exact ⟨_, _, h'⟩

theorem State.takeSample_only (s : State) (r : Fin 64) (x : Region) :
    ∃ l g, s.takeSample r x = { s with live := l, log := g } := by
  unfold State.takeSample
  obtain ⟨l, h⟩ := s.updRegion_only r fun y => { y with lastCommit := some s.time }
  split
  · exact ⟨l, _, h⟩
  · simp only [h]
    split
    · exact State.raiseLongest_only { s with live := l } r x _
    · exact ⟨_, _, rfl⟩

theorem State.deadlineCompletion_only (s : State) (r : Fin 64) :
    ∃ l g, s.deadlineCompletion r = { s with live := l, log := g } := by
  unfold State.deadlineCompletion
  split
  · split
    · exact s.takeSample_only _ _
    · obtain ⟨l, h⟩ := s.updRegion_only r fun y => y.arm s.time
      exact ⟨l, _, h⟩
  · exact ⟨_, _, rfl⟩

theorem State.expireDeadline_only (s : State) (r : Fin 64) :
    ∃ l g a q, s.expireDeadline r = { s with live := l, log := g, alert := a, diagQueue := q } := by
  unfold State.expireDeadline
  split
  · rename_i x _
    obtain ⟨l, h⟩ := s.updRegion_only r fun y => { y with stale := true, deadline := none }
    obtain ⟨g, a, h'⟩ := State.raise_only { s with live := l } (.stale r x.entry.tag x.entry.period)
    simp only [h, h']
    split <;> exact ⟨_, _, _, _, rfl⟩
  · exact ⟨_, _, _, _, rfl⟩

/-! ## The Diagnosis Engine -/

theorem State.beginScan_only (s : State) : ∃ q c, s.beginScan = { s with diagQueue := q, scan := c } := by
  unfold State.beginScan
  split
  · split <;> exact ⟨_, _, rfl⟩
  · exact ⟨_, _, rfl⟩

theorem State.testCondition_only (s : State) (c : Scan) (w : Word) :
    ∃ n g a, s.testCondition c w = { s with scan := n, log := g, alert := a } := by
  unfold State.testCondition
  split
  · obtain ⟨g, a, h⟩ := State.raise_only { s with scan := none } (s.diagFault c w)
    rw [h]; exact ⟨_, _, _, rfl⟩
  · exact ⟨_, _, _, rfl⟩

theorem State.holdScan_only (s : State) (r : Fin 64) : ∃ n, s.holdScan r = { s with scan := n } := by
  unfold State.holdScan
  split
  · split <;> exact ⟨_, rfl⟩
  · exact ⟨_, rfl⟩

theorem State.releaseScan_only (s : State) (r : Fin 64) : ∃ n, s.releaseScan r = { s with scan := n } := by
  unfold State.releaseScan
  split
  · split <;> exact ⟨_, rfl⟩
  · exact ⟨_, rfl⟩

theorem State.diagCompletion_only (s : State) (r : Fin 64) :
    ∃ q n, s.diagCompletion r = { s with diagQueue := q, scan := n } := by
  unfold State.diagCompletion
  obtain ⟨n, h⟩ := State.releaseScan_only
    { s with
      diagQueue := s.diagQueue.filter fun q => q != r
      scan := s.scan.map fun (c : Scan) => if c.region = r then { c with recovered := true } else c } r
  rw [h]; exact ⟨_, _, rfl⟩

/-! ## The Commit Engine -/

theorem State.startCommit_only (s : State) (k : Fin 12) (r : Fin 64) (x : Region) :
    ∃ sl q c l a b pa pb n g, s.startCommit k r x =
      { s with slots := sl, commitQueue := q, commit := c, live := l, sessionsA := a, sessionsB := b, portA := pa
               portB := pb, scan := n, log := g } := by
  unfold State.startCommit
  simp only
  generalize ht : ({ s.setSlot k { s.slots[k] with state := .committing } with
      commitQueue := s.commitQueue.filter fun j => j != k
      commit := some { slot := k, region := r, base := x.entry.base, oldGen := x.gen, step := .opening
                       next := (s.slots[k].words.head?).map Prod.fst } } : State) = t
  obtain ⟨l, h1⟩ := t.updRegion_only r fun y => { y with header := .committing }
  obtain ⟨a, b, h2⟩ := (t.updRegion r fun y => { y with header := .committing }).breakSession_only r
  obtain ⟨pa, pb, h3⟩ := ((t.updRegion r fun y => { y with header := .committing }).breakSession r).withdrawReader_only
    x.entry.writer.other r
  obtain ⟨n, h4⟩ := (((t.updRegion r fun y => { y with header := .committing }).breakSession r).withdrawReader
    x.entry.writer.other r).holdScan_only r
  obtain ⟨g, h5⟩ := ((((t.updRegion r fun y => { y with header := .committing }).breakSession r).withdrawReader
    x.entry.writer.other r).holdScan r).withdrawTorn_only x.entry.base
  rw [h5, h4, h3, h2, h1, ← ht]
  exact ⟨_, _, _, _, _, _, _, _, _, _, rfl⟩

theorem State.startSelected_only (s : State) :
    ∃ sl q c l a b pa pb n g, s.startSelected =
      { s with slots := sl, commitQueue := q, commit := c, live := l, sessionsA := a, sessionsB := b, portA := pa
               portB := pb, scan := n, log := g } := by
  unfold State.startSelected
  split
  · split
    · split
      · exact s.startCommit_only _ _ _
      · exact ⟨_, _, _, _, _, _, _, _, _, _, rfl⟩
    · exact ⟨_, _, _, _, _, _, _, _, _, _, rfl⟩
  · exact ⟨_, _, _, _, _, _, _, _, _, _, rfl⟩

theorem State.tellCompletion_only (s : State) (r : Fin 64) :
    ∃ w sl q l pa pb a b g dq n, s.tellCompletion r =
      { s with waiting := w, slots := sl, commitQueue := q, live := l, portA := pa, portB := pb, sessionsA := a
               sessionsB := b, log := g, diagQueue := dq, scan := n } := by
  unfold State.tellCompletion
  obtain ⟨w, sl, q, l, pa, pb, h1⟩ := s.serveWaiting_only
  obtain ⟨l2, a2, b2, pa2, pb2, h2⟩ := s.serveWaiting.releaseReader_only .a r
  obtain ⟨l3, a3, b3, pa3, pb3, h3⟩ := (s.serveWaiting.releaseReader .a r).releaseReader_only .b r
  obtain ⟨l4, g4, h4⟩ := ((s.serveWaiting.releaseReader .a r).releaseReader .b r).deadlineCompletion_only r
  obtain ⟨q5, n5, h5⟩ :=
    (((s.serveWaiting.releaseReader .a r).releaseReader .b r).deadlineCompletion r).diagCompletion_only r
  rw [h5, h4, h3, h2, h1]
  exact ⟨_, _, _, _, _, _, _, _, _, _, _, rfl⟩

theorem State.finishCommit_only (s : State) (c : CommitRec) :
    ∃ w sl q l pa pb a b g dq n, s.finishCommit c =
      { s with commit := none, waiting := w, slots := sl, commitQueue := q, live := l, portA := pa, portB := pb
               sessionsA := a, sessionsB := b, log := g, diagQueue := dq, scan := n } := by
  unfold State.finishCommit
  obtain ⟨l, h⟩ := s.updRegion_only c.region fun y => { y with gen := c.oldGen + 1, header := .clean, stale := false }
  simp only [h]
  split
  · exact ⟨_, _, _, _, _, _, _, _, _, _, _, rfl⟩
  · generalize ht : ({ ({ s with live := l } : State).setSlot c.slot Slot.empty with commit := none } : State) = t
    obtain ⟨w, sl, q, l', pa, pb, a, b, g, dq, n, h'⟩ := t.tellCompletion_only c.region
    rw [h', ← ht]
    exact ⟨_, _, _, _, _, _, _, _, _, _, _, rfl⟩

theorem State.commitWriteDone_only (s : State) :
    ∃ cm w sl q l pa pb a b g dq n, s.commitWriteDone =
      { s with commit := cm, waiting := w, slots := sl, commitQueue := q, live := l, portA := pa, portB := pb
               sessionsA := a, sessionsB := b, log := g, diagQueue := dq, scan := n } := by
  unfold State.commitWriteDone
  split
  · rename_i c _
    split
    · obtain ⟨w, sl, q, l, pa, pb, a, b, g, dq, n, h⟩ := s.finishCommit_only c
      rw [h]; exact ⟨_, _, _, _, _, _, _, _, _, _, _, _, rfl⟩
    · exact ⟨_, _, _, _, _, _, _, _, _, _, _, _, rfl⟩
  · exact ⟨_, _, _, _, _, _, _, _, _, _, _, _, rfl⟩

/-! ## The Access Classifier -/

theorem State.refuse_only (s : State) (p : Port) (a : Addr) (v : Word) :
    ∃ pa pb g al, s.refuse p a v = { s with portA := pa, portB := pb, log := g, alert := al } := by
  unfold State.refuse
  obtain ⟨pa, pb, h⟩ := s.endAccess_only p none
  obtain ⟨g, al, h'⟩ := (s.endAccess p none).raise_only (.protect p a v)
  rw [h', h]; exact ⟨_, _, _, _, rfl⟩

theorem State.statusRead_only (s : State) (p : Port) (w : Fin 16) :
    ∃ pa pb, s.statusRead p w = { s with portA := pa, portB := pb } := by
  unfold State.statusRead
  split
  · unfold State.latchTime; cases p <;> exact ⟨_, _, rfl⟩
  · exact s.endAccess_only _ _

theorem State.statusWrite_only (s : State) (p : Port) (a : Addr) (v : Word) :
    ∃ pa pb g al, s.statusWrite p a v = { s with portA := pa, portB := pb, log := g, alert := al } := by
  unfold State.statusWrite
  split
  · exact ⟨_, _, _, _, rfl⟩
  · exact ⟨_, _, _, _, rfl⟩
  · unfold State.writeHoldoff
    split
    · exact ⟨_, _, _, _, rfl⟩
    · exact s.refuse_only _ _ _
  · unfold State.writeConsumer
    split
    · exact ⟨_, _, _, _, rfl⟩
    · exact s.refuse_only _ _ _
  · exact s.refuse_only _ _ _

theorem State.endInPfail_only (s : State) (p : Port) (a : Access) :
    ∃ pa pb g al, s.endInPfail p a = { s with portA := pa, portB := pb, log := g, alert := al } := by
  unfold State.endInPfail
  obtain ⟨pa, pb, h⟩ := s.endAccess_only p (endedValue a.dir)
  simp only [h]
  split
  · obtain ⟨g, al, h'⟩ := State.raise_only { s with portA := pa, portB := pb } (.load busyCode 0)
    exact ⟨_, _, _, _, h'⟩
  · exact ⟨_, _, _, _, rfl⟩

/-- What taking an access can change: the ports, the list of waiting writes, the slots and the Commit Queue, the region
records, the Session Tables, the Fault Log and the alert. -/
def State.TakesAccess (s t : State) : Prop :=
  ∃ pa pb w sl q l a b g al, t =
    { s with portA := pa, portB := pb, waiting := w, slots := sl, commitQueue := q, live := l, sessionsA := a
             sessionsB := b, log := g, alert := al }

theorem State.regionAccess_only (s : State) (p : Port) (a : Access) (r : Fin 64) (x : Region) :
    s.TakesAccess (s.regionAccess p a r x) := by
  unfold State.regionAccess State.TakesAccess
  simp only
  split
  · split
    · split
      · obtain ⟨w, sl, q, l, pa, pb, h⟩ := s.ownerSeal_only p r
        rw [h]; exact ⟨_, _, _, _, _, _, _, _, _, _, rfl⟩
      · obtain ⟨w, sl, pa, pb, h⟩ := s.ownerBodyWrite_only p r (x.entry.offset a.addr) a.value
        rw [h]; exact ⟨_, _, _, _, _, _, _, _, _, _, rfl⟩
    · split
      · obtain ⟨pa, pb, h⟩ := s.ownerHeaderRead_only p r
        rw [h]; exact ⟨_, _, _, _, _, _, _, _, _, _, rfl⟩
      · obtain ⟨pa, pb, h⟩ := s.ownerBodyRead_only p r (x.entry.offset a.addr)
        rw [h]; exact ⟨_, _, _, _, _, _, _, _, _, _, rfl⟩
  · split
    · obtain ⟨pa, pb, g, al, h⟩ := s.refuse_only p a.addr a.value
      rw [h]; exact ⟨_, _, _, _, _, _, _, _, _, _, rfl⟩
    · split
      · obtain ⟨l, sa, sb, pa, pb, h⟩ := s.readerHeaderRead_only p r
        rw [h]; exact ⟨_, _, _, _, _, _, _, _, _, _, rfl⟩
      · obtain ⟨pa, pb, h⟩ := s.hold_only p (if s.committing r then .commit else .arbiter) (.readerBody r)
        unfold State.readerBodyRead
        rw [h]; exact ⟨_, _, _, _, _, _, _, _, _, _, rfl⟩

theorem State.takesAccess_refl (s : State) : s.TakesAccess s := ⟨_, _, _, _, _, _, _, _, _, _, rfl⟩

theorem State.hold_takesAccess (s : State) (p : Port) (c : WaitCause) (k : AccessClass) :
    s.TakesAccess (s.hold p c k) := by
  obtain ⟨a, b, h⟩ := s.hold_only p c k
  rw [h]; exact ⟨_, _, _, _, _, _, _, _, _, _, rfl⟩

theorem State.refuse_takesAccess (s : State) (p : Port) (a : Addr) (v : Word) : s.TakesAccess (s.refuse p a v) := by
  obtain ⟨pa, pb, g, al, h⟩ := s.refuse_only p a v
  rw [h]; exact ⟨_, _, _, _, _, _, _, _, _, _, rfl⟩

theorem State.statusAccess_only (s : State) (p : Port) (a : Access) : s.TakesAccess (s.statusAccess p a) := by
  unfold State.statusAccess
  split
  · obtain ⟨pa, pb, h⟩ := s.statusRead_only p (statusWord a.addr)
    rw [h]; exact ⟨_, _, _, _, _, _, _, _, _, _, rfl⟩
  · split
    · exact s.hold_takesAccess _ _ _
    · obtain ⟨pa, pb, g, al, h⟩ := s.statusWrite_only p a.addr a.value
      rw [h]; exact ⟨_, _, _, _, _, _, _, _, _, _, rfl⟩

theorem State.controlAccess_only (s : State) (p : Port) (a : Access) : s.TakesAccess (s.controlAccess p a) := by
  unfold State.controlAccess
  split
  · exact s.hold_takesAccess _ _ _
  all_goals first | exact s.hold_takesAccess _ _ _ | skip
  all_goals split
  all_goals first | exact s.refuse_takesAccess _ _ _ | exact s.hold_takesAccess _ _ _

theorem State.lowAccess_only (s : State) (p : Port) (a : Access) : s.TakesAccess (s.lowAccess p a) := by
  unfold State.lowAccess
  split
  · exact s.hold_takesAccess _ _ _
  · exact s.hold_takesAccess _ _ _
  · exact s.hold_takesAccess _ _ _
  · split <;> exact s.hold_takesAccess _ _ _
  · split
    · split
      · exact s.regionAccess_only _ _ _ _
      · exact s.hold_takesAccess _ _ _
    · exact s.hold_takesAccess _ _ _

theorem State.dispatch_only (s : State) (p : Port) (a : Access) : s.TakesAccess (s.dispatch p a) := by
  unfold State.dispatch
  split
  · obtain ⟨pa, pb, g, al, h⟩ := s.endInPfail_only p a
    rw [h]; exact ⟨_, _, _, _, _, _, _, _, _, _, rfl⟩
  · split
    · exact s.statusAccess_only _ _
    · split
      · exact s.controlAccess_only _ _
      · exact s.lowAccess_only _ _

theorem State.takesAccess_trans {s t u : State} (h : s.TakesAccess t) (h' : t.TakesAccess u) : s.TakesAccess u := by
  obtain ⟨_, _, _, _, _, _, _, _, _, _, rfl⟩ := h
  obtain ⟨_, _, _, _, _, _, _, _, _, _, rfl⟩ := h'
  exact ⟨_, _, _, _, _, _, _, _, _, _, rfl⟩

theorem State.takeAfresh_only (s : State) (p : Port) : s.TakesAccess (s.takeAfresh p) := by
  unfold State.takeAfresh
  split
  · split
    · exact s.dispatch_only _ _
    · exact s.takesAccess_refl
  · exact s.takesAccess_refl

/-- An arrival takes an access and counts it. -/
theorem State.arrive_only (s : State) (p : Port) (d : Dir) (a : Addr) (v : Word) :
    ∃ n, ({ s with arrivals := n } : State).TakesAccess (s.arrive p d a v) := by
  refine ⟨s.arrivals + 1, ?_⟩
  unfold State.arrive
  refine State.takesAccess_trans ?_ (State.dispatch_only _ _ _)
  cases p <;> exact ⟨_, _, _, _, _, _, _, _, _, _, rfl⟩

theorem State.strobe_takesAccess (s : State) (p : Port) : s.TakesAccess (s.strobe p) := by
  cases p <;> exact ⟨_, _, _, _, _, _, _, _, _, _, rfl⟩

theorem State.liftStrobes_takesAccess (s : State) (p : Port) : s.TakesAccess (s.liftStrobes p) := by
  cases p <;> exact ⟨_, _, _, _, _, _, _, _, _, _, rfl⟩

theorem State.record_takesAccess (s : State) (p : Port) (d : Dir) (a : Addr) (v : Word) :
    s.TakesAccess (s.record p d a v) := by
  unfold State.record
  split
  · exact s.takesAccess_refl
  · cases p <;> exact ⟨_, _, _, _, _, _, _, _, _, _, rfl⟩

theorem State.offer_only (s : State) (p : Port) (d : Dir) (a : Addr) (v : Word) :
    ∃ n, ({ s with arrivals := n } : State).TakesAccess (s.offer p d a v) := by
  unfold State.offer
  split
  · exact ⟨s.arrivals, s.takesAccess_refl⟩
  · split
    · exact ⟨s.arrivals, State.takesAccess_trans (s.strobe_takesAccess p) (State.record_takesAccess _ _ _ _ _)⟩
    · split
      · exact ⟨s.arrivals, s.strobe_takesAccess p⟩
      · obtain ⟨n, h⟩ := (s.strobe p).arrive_only p d a v
        refine ⟨n, State.takesAccess_trans ?_ h⟩
        cases p <;> exact ⟨_, _, _, _, _, _, _, _, _, _, rfl⟩

theorem State.releaseLoad_only (s : State) :
    ∃ n, ({ s with freeIndex := n } : State).TakesAccess s.releaseLoad := by
  unfold State.releaseLoad
  split
  · refine ⟨s.freeIndex + 1, ?_⟩
    simp only
    split <;> exact State.takesAccess_trans (State.takeAfresh_only _ _) (State.takeAfresh_only _ _)
  · exact ⟨s.freeIndex, State.takesAccess_trans (State.takeAfresh_only _ _) (State.takeAfresh_only _ _)⟩

/-! ## The Table Loader -/

/-- What the Table Loader's events can change: what taking accesses can change, and the part state, the Loader's own state,
the retained table, the Diagnosis Queue and the index of free values. -/
def State.LoaderMoves (s t : State) : Prop :=
  ∃ pt ld rt dq n, ({ s with part := pt, ldr := ld, retained := rt, diagQueue := dq, freeIndex := n } : State).TakesAccess t

theorem State.loaderMoves_mk (s : State) (pt : PartState) (ld : Loader) (rt : Option Live) (dq : List (Fin 64)) (n : Nat)
    (pa pb : PortRec) (w : List WaitEntry) (sl : Vector Slot 12) (q : List (Fin 12)) (l : Option Live)
    (a b : List Session) (g : FaultLog) (al : AlertUnit) :
    s.LoaderMoves
      { s with part := pt, ldr := ld, retained := rt, diagQueue := dq, freeIndex := n, portA := pa, portB := pb
               waiting := w, slots := sl, commitQueue := q, live := l, sessionsA := a, sessionsB := b, log := g
               alert := al } :=
  ⟨pt, ld, rt, dq, n, pa, pb, w, sl, q, l, a, b, g, al, rfl⟩

theorem State.loaderMoves_of_takes {s t : State} (h : s.TakesAccess t) : s.LoaderMoves t := ⟨_, _, _, _, _, h⟩

theorem State.loaderMoves_trans {s t u : State} (h : s.LoaderMoves t) (h' : t.LoaderMoves u) : s.LoaderMoves u := by
  obtain ⟨_, _, _, _, _, _, _, _, _, _, _, _, _, _, _, rfl⟩ := h
  obtain ⟨_, _, _, _, _, _, _, _, _, _, _, _, _, _, _, rfl⟩ := h'
  exact s.loaderMoves_mk ..

theorem State.raise_takesAccess (s : State) (d : FaultDetail) : s.TakesAccess (s.raise d) := by
  obtain ⟨g, a, h⟩ := s.raise_only d
  rw [h]; exact ⟨_, _, _, _, _, _, _, _, _, _, rfl⟩

theorem State.enqueue_takesAccess (s : State) (i : Item) : s.TakesAccess (s.enqueue i) := by
  obtain ⟨g, h⟩ := s.enqueue_only i
  rw [h]; exact ⟨_, _, _, _, _, _, _, _, _, _, rfl⟩

theorem State.releaseLoad_moves (s : State) : s.LoaderMoves s.releaseLoad := by
  obtain ⟨n, h⟩ := s.releaseLoad_only
  exact ⟨_, _, _, _, n, h⟩

theorem State.setWork_moves (s : State) (w : LoaderWork) : s.LoaderMoves (s.setWork w) :=
  ⟨s.part, { s.ldr with work := w }, s.retained, s.diagQueue, s.freeIndex, State.takesAccess_refl _⟩

theorem State.startLoad_moves (s : State) (o : Origin) : s.LoaderMoves (s.startLoad o) :=
  ⟨.loading, { s.ldr with work := .shadowRead, shadow := some [], origin := some o }, s.retained, s.diagQueue, s.freeIndex,
    State.takesAccess_refl _⟩

theorem State.shadowReadDone_moves (s : State) (w : Word) : s.LoaderMoves (s.shadowReadDone w) := by
  unfold State.shadowReadDone
  simp only
  have h0 : s.LoaderMoves { s with ldr := { s.ldr with shadow := some (s.shadowWords ++ [w]) } } :=
    ⟨s.part, { s.ldr with shadow := some (s.shadowWords ++ [w]) }, s.retained, s.diagQueue, s.freeIndex,
      State.takesAccess_refl _⟩
  split
  · refine State.loaderMoves_trans h0 ?_
    unfold State.endShadowRead
    split <;> exact State.setWork_moves _ _
  · exact h0

theorem State.tornScanDone_moves (s : State) (i : Fin 64) (rest : List (Fin 64)) (found : List Found) (w : Word) :
    s.LoaderMoves (s.tornScanDone i rest found w) := by
  unfold State.tornScanDone
  simp only
  split
  · exact State.loaderMoves_trans (State.setWork_moves _ _) (State.loaderMoves_trans
      (State.loaderMoves_of_takes (State.raise_takesAccess _ _))
      (State.loaderMoves_of_takes (State.enqueue_takesAccess _ _)))
  · exact State.setWork_moves _ _

theorem State.swap_moves (s : State) (found : List Found) : s.LoaderMoves (s.swap found) :=
  s.loaderMoves_mk ..

theorem State.succeedLoad_moves (s : State) (found : List Found) : s.LoaderMoves (s.succeedLoad found) :=
  State.loaderMoves_trans (s.swap_moves found) (State.releaseLoad_moves _)

theorem State.returnToOrigin_moves (s : State) : s.LoaderMoves s.returnToOrigin := by
  unfold State.returnToOrigin
  split <;> exact s.loaderMoves_mk ..

theorem State.dropShadow_moves (s : State) (reason : LoadResult) : s.LoaderMoves (s.dropShadow reason) :=
  s.loaderMoves_mk ..

theorem State.failLoad_moves (s : State) (reason : LoadResult) : s.LoaderMoves (s.failLoad reason) :=
  State.loaderMoves_trans (State.loaderMoves_of_takes (State.raise_takesAccess _ _)) <|
    State.loaderMoves_trans (State.dropShadow_moves _ _) <|
      State.loaderMoves_trans (State.returnToOrigin_moves _) (State.releaseLoad_moves _)

theorem State.finishUnload_moves (s : State) : s.LoaderMoves s.finishUnload := by
  unfold State.finishUnload
  refine State.loaderMoves_trans ?_ (State.releaseLoad_moves _)
  exact s.loaderMoves_mk ..

theorem State.loaderAdvance_moves (s : State) (w : Word) : s.LoaderMoves (s.loaderAdvance w) := by
  unfold State.loaderAdvance
  split
  · exact State.loaderMoves_of_takes s.takesAccess_refl
  · exact s.setWork_moves _
  · unfold State.startUpDone
    split
    · exact s.startLoad_moves _
    · exact s.setWork_moves _
  · exact s.shadowReadDone_moves _
  · exact s.tornScanDone_moves _ _ _ _
  · exact s.succeedLoad_moves _
  · exact s.failLoad_moves _
  · exact s.finishUnload_moves

theorem State.loaderDone_moves (s : State) (w : Word) : s.LoaderMoves (s.loaderDone w) := by
  unfold State.loaderDone
  split
  · exact State.loaderMoves_of_takes s.takesAccess_refl
  · exact s.loaderAdvance_moves w

theorem State.breakSessions_takes (s : State) : s.TakesAccess s.breakSessions :=
  ⟨_, _, _, _, _, _, _, _, _, _, rfl⟩

theorem State.enterDraining_moves (s : State) (c : Command) : s.LoaderMoves (s.enterDraining c) := by
  unfold State.enterDraining
  simp only
  refine State.loaderMoves_trans
    (t := { s with part := .draining, ldr := { s.ldr with command := some c }, diagQueue := [] })
    (s.loaderMoves_mk ..) ?_
  generalize ({ s with part := .draining, ldr := { s.ldr with command := some c }, diagQueue := [] } : State) = t
  refine State.loaderMoves_of_takes ?_
  have h1 : t.TakesAccess t.withdrawWaiting := by
    obtain ⟨w, a, b, h⟩ := t.withdrawWaiting_only
    rw [h]; exact ⟨_, _, _, _, _, _, _, _, _, _, rfl⟩
  have h2 : ∀ (u : State) (p : Port), u.TakesAccess (u.commitWaitToLoad p) := fun u p => by
    obtain ⟨a, b, h⟩ := u.commitWaitToLoad_only p
    rw [h]; exact ⟨_, _, _, _, _, _, _, _, _, _, rfl⟩
  have h3 : ∀ u : State, u.TakesAccess u.discardAllFilling := fun u => by
    obtain ⟨x, l, a, h⟩ := u.discardAllFilling_only
    rw [h]; exact ⟨_, _, _, _, _, _, _, _, _, _, rfl⟩
  exact State.takesAccess_trans h1 (State.takesAccess_trans (h2 _ _) (State.takesAccess_trans (h2 _ _)
    (State.takesAccess_trans (State.breakSessions_takes _) (h3 _))))

theorem State.takeCommand_moves (s : State) (c : Command) (w : Bool) : s.LoaderMoves (s.takeCommand c w) := by
  unfold State.takeCommand
  split
  · exact State.loaderMoves_of_takes (s.raise_takesAccess _)
  · split
    · exact s.startLoad_moves _
    · exact State.loaderMoves_of_takes s.takesAccess_refl
    · exact s.enterDraining_moves _
    all_goals exact State.loaderMoves_of_takes (s.raise_takesAccess _)

theorem State.endDrain_moves (s : State) : s.LoaderMoves s.endDrain := by
  unfold State.endDrain
  simp only
  split
  · refine State.loaderMoves_trans ?_ (State.startLoad_moves _ _)
    exact s.loaderMoves_mk ..
  · refine State.loaderMoves_trans ?_ (State.setWork_moves _ _)
    exact State.loaderMoves_of_takes ⟨_, _, _, _, _, _, _, _, _, _, rfl⟩
  · exact State.loaderMoves_of_takes ⟨_, _, _, _, _, _, _, _, _, _, rfl⟩

/-! ## The memory port -/

theorem State.markGranted_only (s : State) (q : Requester) :
    ∃ a b, s.markGranted q = { s with portA := a, portB := b } := by
  unfold State.markGranted
  split
  · exact s.updAccess_only _ _
  all_goals exact ⟨_, _, rfl⟩

/-- A grant changes the cycle carried, the rotation pointer and the granted port's record. -/
theorem State.grant_only (s : State) :
    ∃ c k a b, s.grant = { s with cycle := c, pointer := k, portA := a, portB := b } := by
  unfold State.grant
  split
  · rename_i who c _ _
    obtain ⟨a, b, h⟩ := State.markGranted_only { s with cycle := some c, pointer := who.next } c.req
    rw [h]; exact ⟨_, _, _, _, rfl⟩
  · exact ⟨_, _, _, _, rfl⟩

theorem State.hostDone_moves (s : State) (p : Port) (c : Cycle) : s.LoaderMoves (s.hostDone p c) := by
  unfold State.hostDone
  simp only
  have h0 : s.LoaderMoves (if s.part = .pfail then s
      else s.endAccess p (match c.dir with
        | .read => some c.data
        | .write => none)) := by
    split
    · exact State.loaderMoves_of_takes s.takesAccess_refl
    · refine State.loaderMoves_of_takes ?_
      generalize (match c.dir with
        | .read => some c.data
        | .write => none) = d
      obtain ⟨a, b, h⟩ := s.endAccess_only p d
      rw [h]; exact ⟨_, _, _, _, _, _, _, _, _, _, rfl⟩
  split
  · exact State.loaderMoves_trans h0 (State.takeCommand_moves _ _ _)
  · exact h0

/-- What the completion of a cycle can change but for memory and the cycle itself: what the Loader's events can change, the
commit record and the scan record. -/
def State.CompletionMoves (s t : State) : Prop :=
  ∃ cm sc, ({ s with commit := cm, scan := sc } : State).LoaderMoves t

theorem State.diagDone_only (s : State) (w : Word) :
    ∃ n g a, s.diagDone w = { s with scan := n, log := g, alert := a } := by
  unfold State.diagDone
  split
  · split
    · exact ⟨_, _, _, rfl⟩
    · exact s.testCondition_only _ _
  · exact ⟨_, _, _, rfl⟩

/-- The completion of a cycle stores its write, frees the memory port, and moves what the requester owns. -/
theorem State.completeCycle_only (s : State) (c : Cycle) :
    ({ s with mem := s.memCarried, cycle := none } : State).CompletionMoves (s.completeCycle c) := by
  unfold State.completeCycle
  simp only
  generalize ({ s with mem := s.memCarried, cycle := none } : State) = t
  split
  · exact ⟨_, _, t.hostDone_moves _ _⟩
  · obtain ⟨cm, w, sl, q, l, pa, pb, a, b, g, dq, n, h⟩ := t.commitWriteDone_only
    rw [h]; exact ⟨cm, n, State.loaderMoves_mk ..⟩
  · exact ⟨_, _, t.loaderDone_moves _⟩
  · obtain ⟨l, h⟩ := t.writerAdvance_only c.data
    rw [h]
    exact ⟨t.commit, t.scan, State.loaderMoves_mk ..⟩
  · obtain ⟨n, g, a, h⟩ := t.diagDone_only c.data
    rw [h]
    exact ⟨t.commit, n, State.loaderMoves_mk ..⟩

/-! ## PFAIL_N and the wait limit -/

theorem State.expireWait_only (s : State) (p : Port) (a : Access) (c : WaitCause) :
    ∃ w pa pb g al, s.expireWait p a c = { s with waiting := w, portA := pa, portB := pb, log := g, alert := al } := by
  unfold State.expireWait
  obtain ⟨pa, pb, h⟩ := State.endAccess_only { s with waiting := s.waiting.filter fun w => w.port != p } p
    (endedValue a.dir)
  rw [h]
  obtain ⟨g, al, h'⟩ := State.raise_only
    { { s with waiting := s.waiting.filter fun w => w.port != p } with portA := pa, portB := pb }
    (.wait p a.addr a.dir c)
  rw [h']; exact ⟨_, _, _, _, _, rfl⟩

theorem State.endByPfail_only (s : State) (p : Port) :
    ∃ a b, s.endByPfail p = { s with portA := a, portB := b } := by
  unfold State.endByPfail
  split
  · exact s.endAccess_only _ _
  · exact ⟨_, _, rfl⟩

/-- A fall that is taken puts the part in PFAIL; the Time Count, memory, the commit in progress and the cycle carried stay. -/
theorem State.enterPfail_only (s : State) :
    ∃ pins ld l pa pb w sl q g al, s.enterPfail =
      { s with part := .pfail, pins := pins, ldr := ld, live := l, portA := pa, portB := pb, waiting := w, slots := sl
               commitQueue := q, log := g, alert := al } := by
  unfold State.enterPfail
  obtain ⟨a, b, h⟩ := s.endByPfail_only .a
  obtain ⟨a', b', h'⟩ := (s.endByPfail .a).endByPfail_only .b
  rw [h', h]; exact ⟨_, _, _, _, _, _, _, _, _, _, rfl⟩

/-! ## RESET_N -/

/-- A PFAIL_N level still to be taken is taken as a fall, unless the part is in PFAIL already. -/
theorem State.takeDueFall_cases (s : State) :
    s.takeDueFall = s ∧ (s.pins.pfailDue = false ∨ s.part = .pfail)
      ∨ s.takeDueFall = s.enterPfail ∧ s.pins.pfailDue = true ∧ s.part ≠ .pfail := by
  unfold State.takeDueFall State.takeFall
  by_cases h : s.pins.pfailDue = true <;> by_cases h' : s.part = .pfail <;> simp [h, h']

/-- A reset of which 160 periods are counted, not yet taken, takes effect; one that is not due leaves the part as it is. -/
theorem State.takeDueReset_cases (s : State) :
    s.takeDueReset = s ∧ s.resetDue = false ∨ s.takeDueReset = s.takeDueFall.resetTakes ∧ s.resetDue = true := by
  unfold State.takeDueReset
  by_cases h : s.resetDue = true
  · refine .inr ⟨?_, h⟩
    simp only [State.resetDue, State.running, Bool.and_eq_true, decide_eq_true_eq, Bool.not_eq_true'] at h
    simp [State.resetDue, State.running, State.resetLow, Pins.lowPeriods, h]
  · exact .inl ⟨if_neg h, by simpa using h⟩

/-- In a reset that has taken effect none is due. -/
theorem State.takeDueReset_of_taken {s : State} (h : s.pins.resetTaken = true) : s.takeDueReset = s := by
  simp [State.takeDueReset, State.resetDue, State.running, h]

end Sys2Proof.Machine
end

