-- ==== Sys2Proof/Laws/Arrivals.lean ====
section
/-! SUPPORT. An arrival at a ready port, and the two ways its classification ends: answered at the arrival, or waiting. -/

namespace Sys2Proof.Machine

/-- An access offered at a ready port arrives. -/
theorem State.offer_of_ready {s : State} {p : Port} (h : s.portReady p) (d : Dir) (a : Addr) (v : Word) :
    s.offer p d a v = (s.strobe p).arrive p d a v := by
  obtain ⟨hr, ha, hs⟩ := h
  simp only [State.running, Bool.and_eq_true, Bool.not_eq_true'] at hr
  simp [State.offer, hr, ha, hs]

/-- ACCESS_ARRIVAL at a ready port with a strobe low is an arrival in the direction that WE_N gives. -/
theorem exec_accessArrival_of_ready {s : State} {p : Port} (h : s.portReady p) {oe we : Bool}
    (strobe : (oe || we) = true) (a : Addr) (v : Word) :
    exec (.accessArrival p oe we a v) s =
      .next (((s.strobe p).register p (s.newAccess (dirOf we) a v)).dispatch p (s.newAccess (dirOf we) a v)) := by
  cases we <;> cases oe <;>
    simp_all [exec, execAccessArrival, dirOf, State.offer_of_ready h, State.arrive, State.newAccess, State.after]

/-- An access that ends at its arrival. -/
theorem State.register_endAccess (s : State) (p : Port) (a : Access) (d : Option Word) :
    ((s.strobe p).register p a).endAccess p d = s.answered p d := by
  cases p <;> rfl

/-- An access that waits from its arrival. -/
theorem State.register_hold (s : State) (p : Port) (dir : Dir) (addr : Addr) (value : Word) (c : WaitCause)
    (k : AccessClass) :
    ((s.strobe p).register p (s.newAccess dir addr value)).hold p c k = s.waitsAt p dir addr value c k := by
  cases p <;> simp [State.register, State.strobe, State.newAccess, State.hold, State.updAccess, State.setPort, State.port,
    State.waitsAt, State.after]

@[simp] theorem State.port_register_self (s : State) (p : Port) (a : Access) :
    (s.register p a).port p = { s.port p with access := some a, driven := none } := by
  cases p <;> rfl

@[simp] theorem State.newAccess_dir (s : State) (d : Dir) (a : Addr) (v : Word) : (s.newAccess d a v).dir = d := rfl
@[simp] theorem State.newAccess_addr (s : State) (d : Dir) (a : Addr) (v : Word) : (s.newAccess d a v).addr = a := rfl
@[simp] theorem State.newAccess_value (s : State) (d : Dir) (a : Addr) (v : Word) : (s.newAccess d a v).value = v := rfl
@[simp] theorem State.newAccess_order (s : State) (d : Dir) (a : Addr) (v : Word) :
    (s.newAccess d a v).order = s.arrivals := rfl

/-- In ACTIVE an access to a live region's word is handed on by Table 1-4. -/
theorem State.dispatch_of_accessesRegion {s : State} {p : Port} {addr : Addr} {r : Fin 64} {x : Region}
    (h : s.accessesRegion p addr r x) (d : Dir) (v : Word) :
    ((s.strobe p).register p (s.newAccess d addr v)).dispatch p (s.newAccess d addr v) =
      ((s.strobe p).register p (s.newAccess d addr v)).regionAccess p (s.newAccess d addr v) r x := by
  obtain ⟨_, hp, ha, hat, hx⟩ := h
  have hl : ((s.strobe p).register p (s.newAccess d addr v)).live = s.live := by simp
  have h1 : inStatusBlock addr = false := by simp [inStatusBlock]; omega
  have h2 : inControlArea addr = false := by simp [inControlArea]; omega
  simp [State.dispatch, hp, h1, h2, State.lowAccess, State.regionAt_of_live hl, State.region?_of_live hl, hat, hx]

end Sys2Proof.Machine
end

