-- ==== Sys2Proof/Laws/Memory.lean ====
section
/-! SUPPORT. Memory: reading after writing, and the canonical form that every operation keeps. -/

namespace Sys2Proof.Machine

theorem cellsGet_put (m : List (Nat × Word)) (a b : Nat) (w : Word) :
    cellsGet (cellsPut m a w) b = if a = b then some w else cellsGet m b := by
  induction m with
  | nil => simp [cellsPut, cellsGet]
  | cons c rest ih =>
    obtain ⟨k, v⟩ := c
    simp only [cellsPut]
    split
    · simp [cellsGet]
    · split
      · rename_i _ hk
        rw [← hk]; by_cases h : a = b <;> simp [cellsGet, h]
      · rename_i _ hk
        simp only [cellsGet, ih]
        by_cases h : k = b
        · subst h; simp [hk]
        · simp [h]

theorem cellsGet_erase (m : List (Nat × Word)) (a b : Nat) :
    cellsGet (cellsErase m a) b = if a = b then none else cellsGet m b := by
  induction m with
  | nil => simp [cellsErase, cellsGet]
  | cons c rest ih =>
    obtain ⟨k, v⟩ := c
    simp only [cellsErase]
    split
    · rename_i hk
      rw [ih, hk]; by_cases h : a = b <;> simp [cellsGet, h]
    · rename_i hk
      simp only [cellsGet, ih]
      by_cases h : k = b
      · subst h; simp [Ne.symm hk]
      · simp [h]

/-- Rising keys, as a pairwise statement. -/
theorem cellsRising_iff (m : List (Nat × Word)) : cellsRising m = true ↔ m.Pairwise fun x y => x.1 < y.1 := by
  induction m with
  | nil => simp [cellsRising]
  | cons c rest ih =>
    obtain ⟨k, v⟩ := c
    cases rest with
    | nil => simp [cellsRising]
    | cons d rest' =>
      obtain ⟨k', v'⟩ := d
      simp only [cellsRising, Bool.and_eq_true, decide_eq_true_eq, ih]
      constructor
      · rintro ⟨hk, hp⟩
        refine List.pairwise_cons.2 ⟨?_, hp⟩
        intro y hy
        rcases List.mem_cons.1 hy with rfl | hy
        · exact hk
        · exact lt_trans hk ((List.pairwise_cons.1 hp).1 y hy)
      · intro hp
        exact ⟨(List.pairwise_cons.1 hp).1 _ (List.mem_cons_self ..), (List.pairwise_cons.1 hp).2⟩

theorem mem_cellsPut {m : List (Nat × Word)} {a : Nat} {w : Word} {c : Nat × Word} (h : c ∈ cellsPut m a w) :
    c = (a, w) ∨ c ∈ m := by
  induction m with
  | nil => simpa [cellsPut] using h
  | cons d rest ih =>
    obtain ⟨k, v⟩ := d
    simp only [cellsPut] at h
    split at h
    · simpa using h
    · split at h
      · rcases List.mem_cons.1 h with h | h
        · exact .inl h
        · exact .inr (List.mem_cons_of_mem _ h)
      · rcases List.mem_cons.1 h with h | h
        · exact .inr (h ▸ List.mem_cons_self ..)
        · exact (ih h).imp id (List.mem_cons_of_mem _)

theorem mem_cellsErase {m : List (Nat × Word)} {a : Nat} {c : Nat × Word} (h : c ∈ cellsErase m a) : c ∈ m := by
  induction m with
  | nil => simp [cellsErase] at h
  | cons d rest ih =>
    obtain ⟨k, v⟩ := d
    simp only [cellsErase] at h
    split at h
    · exact List.mem_cons_of_mem _ (ih h)
    · rcases List.mem_cons.1 h with h | h
      · exact h ▸ List.mem_cons_self ..
      · exact List.mem_cons_of_mem _ (ih h)

theorem cellsPut_rising {m : List (Nat × Word)} (a : Nat) (w : Word) (h : m.Pairwise fun x y => x.1 < y.1) :
    (cellsPut m a w).Pairwise fun x y => x.1 < y.1 := by
  induction m with
  | nil => simp [cellsPut]
  | cons d rest ih =>
    obtain ⟨k, v⟩ := d
    obtain ⟨hk, hr⟩ := List.pairwise_cons.1 h
    simp only [cellsPut]
    split
    · rename_i hlt
      refine List.pairwise_cons.2 ⟨?_, h⟩
      intro y hy
      rcases List.mem_cons.1 hy with rfl | hy
      · exact hlt
      · exact lt_trans hlt (hk y hy)
    · split
      · rename_i heq
        exact List.pairwise_cons.2 ⟨fun y hy => heq ▸ hk y hy, hr⟩
      · refine List.pairwise_cons.2 ⟨?_, ih hr⟩
        intro y hy
        rcases mem_cellsPut hy with rfl | hy
        · simp; omega
        · exact hk y hy

theorem cellsErase_rising {m : List (Nat × Word)} (a : Nat) (h : m.Pairwise fun x y => x.1 < y.1) :
    (cellsErase m a).Pairwise fun x y => x.1 < y.1 := by
  induction m with
  | nil => simp [cellsErase]
  | cons d rest ih =>
    obtain ⟨k, v⟩ := d
    obtain ⟨hk, hr⟩ := List.pairwise_cons.1 h
    simp only [cellsErase]
    split
    · exact ih hr
    · exact List.pairwise_cons.2 ⟨fun y hy => hk y (mem_cellsErase hy), ih hr⟩

/-- The canonical form, as statements about the cells. -/
theorem Memory.wf_iff (m : Memory) :
    Memory.wf m = true ↔
      m.Pairwise (fun x y => x.1 < y.1) ∧ ∀ c ∈ m, c.1 < 2 ^ 18 ∧ c.2 ≠ blankWord := by
  simp [Memory.wf, cellsRising_iff, List.all_eq_true]

/-- A word written reads as written, and every other word as before (R176). -/
theorem memRead_memWrite (m : Memory) (a b : Addr) (w : Word) :
    memRead (memWrite m a w) b = if a = b then w else memRead m b := by
  unfold memRead memWrite
  by_cases h : a = b
  · subst h; split <;> simp [cellsGet_put, cellsGet_erase, *]
  · have hn : a.toNat ≠ b.toNat := fun e => h (BitVec.eq_of_toNat_eq e)
    rw [if_neg h]
    split <;> simp [cellsGet_put, cellsGet_erase, hn]

/-- Every write keeps the canonical form. -/
theorem memWrite_wf {m : Memory} (a : Addr) (w : Word) (h : Memory.wf m = true) : Memory.wf (memWrite m a w) = true := by
  rw [Memory.wf_iff] at h ⊢
  unfold memWrite
  split
  · exact ⟨cellsErase_rising _ h.1, fun c hc => h.2 c (mem_cellsErase hc)⟩
  · rename_i hw
    refine ⟨cellsPut_rising _ _ h.1, fun c hc => ?_⟩
    rcases mem_cellsPut hc with rfl | hc
    · exact ⟨a.isLt, hw⟩
    · exact h.2 c hc

end Sys2Proof.Machine
end

