-- ==== Sys2Proof/Laws/Regions.lean ====
section
/-! SUPPORT. Region records and their deferral, the slots, and the completion of the carried cycle, each as one equation. -/

namespace Sys2Proof.Machine

/-! ## Region records -/

/-- A region has a record exactly when the live table holds it. -/
theorem State.region?_eq_some {s : State} {r : Fin 64} {x : Region} :
    s.region? r = some x ↔ ∃ l, s.live = some l ∧ l.regions[r] = some x := by
  unfold State.region?
  cases s.live <;> simp

/-- The change of the record of a region that has one. -/
theorem State.updRegion_eq {s : State} {r : Fin 64} {x : Region} (h : s.region? r = some x) (f : Region → Region) :
    s.updRegion r f = s.withRegion r (f x) := by
  obtain ⟨l, hl, hr⟩ := State.region?_eq_some.1 h
  have hr' : l.regions[r.val] = some x := hr
  simp [State.updRegion, State.withRegion, hl, hr']

/-- After the record of `r` is set, `r` has it and every other region has what it had. -/
theorem State.region?_withRegion {s : State} {r : Fin 64} {x : Region} (h : s.region? r = some x) (y : Region)
    (q : Fin 64) : (s.withRegion r y).region? q = if q = r then some y else s.region? q := by
  obtain ⟨l, hl, -⟩ := State.region?_eq_some.1 h
  by_cases hq : q = r
  · subst hq
    simp [State.withRegion, State.region?, hl]
  · have : r.val ≠ q.val := fun e => hq (Fin.ext e.symm)
    simp [State.withRegion, State.region?, hl, hq, this]

/-- What a region record does when its deferral may have changed: the hold timer runs exactly while the region holds a SEALED
slot, its session is OPEN and its hold limit is above 0 (R65 to R68). -/
theorem State.noteDeferral_eq {s : State} {r : Fin 64} {x : Region} (h : s.region? r = some x) :
    s.noteDeferral r = s.withRegion r
      { x with
        holdTimer :=
          if (s.sealedLink r).isSome then
            x.holdWhileSealed (sessionIn (s.sessions x.entry.writer.other) r) s.time
          else none } := by
  have hd : s.deferring r = ((s.sealedLink r).isSome && decide (0 < x.entry.hold)
      && decide ((sessionIn (s.sessions x.entry.writer.other) r).map Session.state = some .open)) := by
    simp only [State.deferring, h, State.sessionLink]
    congr 1
    cases sessionIn (s.sessions x.entry.writer.other) r with
    | none => simp
    | some e => cases hs : e.state <;> simp [hs]
  unfold State.noteDeferral
  rw [State.updRegion_eq h]
  simp only [hd, Region.holdWhileSealed]
  by_cases h1 : (s.sealedLink r).isSome <;> by_cases h2 : 0 < x.entry.hold
    <;> by_cases h3 : (sessionIn (s.sessions x.entry.writer.other) r).map Session.state = some .open
    <;> simp [h1, h2, h3]
  cases hx : x.holdTimer
  · simp [State.after]
  · congr 1
    cases x
    simp_all

/-! ## Slots -/

/-- The first number that passes a test, among the numbers below `n` in order. -/
theorem find?_finRange_eq_some {n : Nat} {p : Fin n → Bool} {k : Fin n} :
    (List.finRange n).find? p = some k ↔ p k = true ∧ ∀ j, j < k → p j = false := by
  rw [List.find?_eq_some_iff_getElem]
  constructor
  · rintro ⟨hp, i, hi, rfl, hj⟩
    refine ⟨hp, fun j h => ?_⟩
    have hlt : j.val < i := by simpa [Fin.lt_def] using h
    have := hj j.val hlt
    simpa using this
  · rintro ⟨hp, hj⟩
    refine ⟨hp, k.val, by simp, by simp, fun j h => ?_⟩
    simpa using hj ⟨j, by omega⟩ (by simpa [Fin.lt_def] using h)

/-- The slot given next is the FREE slot of lowest number (R18, R22). -/
theorem State.freeSlot_eq_some {s : State} {k : Fin 12} :
    s.freeSlot = some k ↔ s.slots[k].state = .free ∧ ∀ j : Fin 12, j < k → s.slots[j].state ≠ .free := by
  simp [State.freeSlot, find?_finRange_eq_some]

/-- No slot is given exactly when none is FREE. -/
theorem State.freeSlot_eq_none {s : State} : s.freeSlot = none ↔ ∀ j : Fin 12, s.slots[j].state ≠ .free := by
  simp [State.freeSlot]

/-! ## The completion of the carried cycle -/

/-- With no PFAIL_N level still to be taken, the cycle carried completes. -/
theorem State.complete_of_cycle {s : State} {c : Cycle} (hd : s.pins.pfailDue = false) (hc : s.cycle = some c) :
    s.complete = s.completeCycle c := by
  simp [State.complete, State.takeDueFall, hd, hc]

/-- MEMORY_CYCLE_COMPLETION of the cycle carried. -/
theorem exec_memoryCycleCompletion_of_cycle {s : State} {c : Cycle} (hr : s.running = true)
    (hd : s.pins.pfailDue = false) (hc : s.cycle = some c) :
    exec .memoryCycleCompletion s = .next (s.completeCycle c) := by
  simp [exec, execMemoryCycleCompletion, State.completeIf, hr, hc, State.complete_of_cycle hd hc]

/-- A row that names the cycle carried is its completion. -/
theorem State.completeIf_of_cycle {s : State} {c : Cycle} {atHand : Bool} (hr : s.running = true)
    (hd : s.pins.pfailDue = false) (hc : s.cycle = some c) (h : atHand = true) :
    s.completeIf atHand = s.completeCycle c := by
  simp [State.completeIf, hr, h, State.complete_of_cycle hd hc]

/-- Memory after a carried write. -/
theorem State.memCarried_of_write {s : State} {c : Cycle} (hc : s.cycle = some c) (hw : c.dir = .write) :
    s.memCarried = memWrite s.mem c.addr c.data := by
  simp [State.memCarried, hc, hw]

/-- Memory after a carried read. -/
theorem State.memCarried_of_read {s : State} {c : Cycle} (hc : s.cycle = some c) (hw : c.dir = .read) :
    s.memCarried = s.mem := by
  simp [State.memCarried, hc, hw]

end Sys2Proof.Machine
end

