-- ==== Sys2Proof/Tests/Slice0.lean ====
section
/-! SUPPORT. Tests of the model, one step each on small states, with expected results from the spec's worked sequences and
rules; the ill-formed commands; and for every statement with hypotheses a state and operands that meet them. -/

namespace Sys2Proof.Tests

open Sys2Proof Sys2Proof.Machine

/-! ## Small states -/

/-- The state after a command; the same state if there is none. -/
def after (c : Instr) (s : State) : State :=
  match exec c s with
  | .next t => t
  | .fault _ => s
  | .refused _ => s

/-- Region 2 of section 11.7: base 00400H, length 7, owner port A, hold limit 10. -/
def entry2 : Entry :=
  { writer := .a, learn := false, base := 0x400#18, len := 7, hold := 10, period := 0, condFirst := 0, condCount := 0
    tag := 0x200#16 }

/-- Region 30 of section 11.9: period 20 ms, tag 1E00H, conditions 40 and 41. Its place is the test's own. -/
def entry30 : Entry :=
  { writer := .b, learn := false, base := 0x500#18, len := 4, hold := 0, period := 20, condFirst := 40, condCount := 2
    tag := 0x1E00#16 }

def region (e : Entry) (gen : BitVec 10) : Region :=
  { entry := e, gen := gen, header := .clean, stale := false, holdTimer := none, deadline := none, lastCommit := none
    longest := 0, proposed := e.period }

/-- Conditions 40 and 41 of section 11.9, the others blank. -/
def pool : List Condition :=
  List.replicate 40 { addr := 0#18, sense := .equal, mask := 0#16, expected := 0#16 }
    ++ [ { addr := 0x6100#18, sense := .equal, mask := 0x8000#16, expected := 0x8000#16 }
       , { addr := 0x6101#18, sense := .differ, mask := 0xFFFF#16, expected := 0#16 } ]

def table (x2 x30 : Region) : Live :=
  { regions := ((Vector.replicate 64 none).set 2 (some x2)).set 30 (some x30), conds := pool }

def x2 : Region := region entry2 500#10
def x30 : Region := region entry30 7#10

/-- BYPASS with the Loader at rest. -/
def bypass : State := { State.reset with ldr := { State.reset.ldr with work := .idle } }

/-- ACTIVE with regions 2 and 30 as given, a wait limit of 1000 and a margin of 3. -/
def activeWith (a b : Region) : State :=
  { bypass with part := .active, live := some (table a b), ldr := { bypass.ldr with margin := some 3 } }

def active : State := activeWith x2 x30

def slot (st : SlotState) (r : Fin 64) (ws : List (Nat × Word)) : Slot := { state := st, region := some r, words := ws }

/-- Slot 0 as given. -/
def slots1 (x : Slot) : Vector Slot 12 := (Vector.replicate 12 Slot.empty).set 0 x

/-- Slots 0 and 1 as given. -/
def slots2 (x y : Slot) : Vector Slot 12 := ((Vector.replicate 12 Slot.empty).set 0 x).set 1 y

/-- No slot is FREE: every slot is SEALED of region 30, but slot 0. -/
def fullSlots (x : Slot) : Vector Slot 12 := (Vector.replicate 12 (slot .sealed 30 [])).set 0 x

/-- An access that waits. -/
def waiter (d : Dir) (a : Addr) (v : Word) (c : WaitCause) (k : AccessClass) : Access :=
  { dir := d, addr := a, value := v, arrival := 0, order := 0, limit := 1000, timer := some 1000, phase := .held c, cls := k
    waitedLoad := c == .load }

/-- A port with the access `a` in flight, its strobes held. -/
def portWith (a : Access) : PortRec := { PortRec.idle with access := some a, strobes := true }

/-- Word 1 being cleared by the Loader. -/
def clearing : Cycle := { req := .loader, dir := .write, addr := 0x3F001#18, data := 0#16 }

/-- Port A's write of a value to the command word, being carried. -/
def commandCycle (v : Word) : Cycle := { req := .port .a, dir := .write, addr := 0x3F001#18, data := v }

/-- A commit of region 2, whose slot 0 holds offset 2, at a step. -/
def commit2 (st : CommitStep) (next : Option Nat) : CommitRec :=
  { slot := 0, region := 2, base := 0x400#18, oldGen := 500#10, step := st, next := next }

def committing2 (st : CommitStep) (next : Option Nat) : State :=
  { activeWith { x2 with header := .committing } x30 with
    slots := slots1 (slot .committing 2 [(2, 0x222#16)]), commit := some (commit2 st next) }

/-- The CLOSING write of region 2's commit is carried. -/
def closing2 : State :=
  { committing2 .closing none with
    cycle := some { req := .commit, dir := .write, addr := 0x400#18, data := 0x7D40#16 } }

/-! ## Ill-formed commands -/

theorem test_refused_write_is_one_the_block_refuses : (Instr.statusBlockWriteRefused .a 2 0#16).wellFormed = false := by
  decide

theorem test_reset_pulse_has_a_length : (Instr.resetNFalling 0).wellFormed = false := by decide

theorem test_well_formed_commands :
    (Instr.accessArrival .b true false 0x400#18 0#16).wellFormed = true
      ∧ (Instr.statusBlockWriteRefused .b 2 0#16).wellFormed = true ∧ (Instr.resetNFalling 160).wellFormed = true := by
  decide

/-- No row of the opcode table has bits. -/
theorem test_no_word_spells_a_command : decodeTableWord 16 0xFFFF = none := rfl

/-! ## One step of each command -/

/-- Section 11.7, time 100: B's read of 00400H is answered with generation 500 and OPEN. -/
theorem test_reader_header_opens :
    (after (.accessArrival .b true false 0x400#18 0#16) active).portB.driven = some 0x7D02#16 := by decide

/-- R166, R167: a second arrival at strobes that are held is none; when they return to inactive DQ is driven no longer, and the
next access arrives. -/
theorem test_strobes_must_return :
    let held := after (.accessArrival .b true false 0x400#18 0#16) active
    let lifted := after (.accessArrival .b false false 0#18 0#16) held
    (after (.timeLowRead .b) held).arrivals = 1 ∧ lifted.portB.driven = none ∧ (after (.timeLowRead .b) lifted).arrivals = 2 := by
  decide

/-- Section 11.7, time 150: A's seal defers behind B's session, and the hold of 320 µs expires at 470. -/
theorem test_seal_defers :
    ((after (.accessArrival .a false true 0x400#18 9#16)
      { active with
        time := 150, slots := slots1 (slot .filling 2 [(1, 1#16)])
        sessionsB := [{ region := 2, state := .open }] }).region? 2).map Region.holdTimer = some (some 470#32) := by
  decide

/-- Section 11.10: with TORN pending, unmasking every cause asserts ALERT_N. -/
theorem test_mask_write_asserts :
    (after (.alertMaskWrite 0#16) { active with alert := { active.alert with pending := 0x20 } }).alert.asserted = true := by
  decide

/-- R130: the named causes are cleared, and n = 2 starts a holdoff of 128 µs. -/
theorem test_acknowledge :
    (after (.acknowledge 0x20#16) { active with alert := { active.alert with pending := 0x24, n := 2 } }).alert
      = { pending := 0x04, mask := 0xFF, n := 2, holdoff := some 128#32, asserted := false } := by decide

/-- Log 10: a read whose strobes are lifted at its completion drives nothing; lifted and asserted again in flight, it drives its
word. -/
theorem test_strobes_lifted_in_flight :
    let s : State :=
      { bypass with
        portA := portWith { waiter .read 0x10#18 0 .arbiter .memory with phase := .granted, timer := none }
        cycle := some { req := .port .a, dir := .read, addr := 0x10#18, data := 7#16 } }
    let lifted := after (.accessArrival .a false false 0#18 0#16) s
    (after .memoryCycleCompletion lifted).portA.driven = none
      ∧ (after .memoryCycleCompletion (after (.accessArrival .a true false 0#18 0#16) lifted)).portA.driven = some 7#16 := by
  decide

/-- R131: a value above 255 is refused with PROTECT. -/
theorem test_holdoff_write_bound :
    (after (.alertHoldoffWrite 256#16) active).alert.pending = 0x04#8
      ∧ (after (.alertHoldoffWrite 255#16) active).alert.n = 255#8 := by decide

/-- R125's example: P = 5, C = 60, v = 63 is accepted. -/
theorem test_consumer_accepts :
    (after (.faultConsumerWrite 63#16) { active with log := { active.log with producer := 5, consumer := 60 } }).log.consumer
      = 63#6 := by decide

/-- R125's example: v = 6 and v = 59 are refused. -/
theorem test_consumer_refuses :
    ((after (.faultConsumerWrite 6#16) { active with log := { active.log with producer := 5, consumer := 60 } }).log.consumer
        = 60#6)
      ∧ (after (.faultConsumerWrite 59#16)
          { active with log := { active.log with producer := 5, consumer := 60 } }).alert.pending = 0x04#8 := by
  decide

/-- R89: TIME LOW answers the low half and latches the high half. -/
theorem test_time_low :
    (after (.timeLowRead .b) { active with time := 0x12345678 }).portB.driven = some 0x5678#16
      ∧ (after (.timeLowRead .b) { active with time := 0x12345678 }).portB.latch = 0x1234#16 := by decide

/-- R136: port B's write of FAULT CONSUMER raises PROTECT. -/
theorem test_status_write_refused : (after (.statusBlockWriteRefused .b 6 0#16) active).alert.pending = 0x04#8 := by
  decide

/-- R141: LOAD in BYPASS enters LOADING. -/
theorem test_load_command :
    (after .loadCommand { bypass with cycle := some (commandCycle 1#16) }).part = .loading := by decide

/-- R141: UNLOAD in ACTIVE enters DRAINING with the command pending. -/
theorem test_unload_command :
    (after .unloadCommand { active with cycle := some (commandCycle 2#16) }).part = .draining
      ∧ (after .unloadCommand { active with cycle := some (commandCycle 2#16) }).ldr.command = some .unload := by
  decide +kernel

/-- R180, R140: 159 periods do not reset the part, 160 do; the part state changes at the release. -/
theorem test_reset_takes_160_periods :
    (after (.resetNFalling 159) active).pins.resetTaken = false
      ∧ (after (.resetNFalling 160) active).pins.resetTaken = true ∧ (after (.resetNFalling 160) active).part = .active
      ∧ (after (.resetNRelease false) (after (.resetNFalling 160) active)).part = .bypass := by
  decide

/-- R157, log 13: a PFAIL_N level still to be taken ends the read in flight, so that the reset records no access. -/
theorem test_due_fall_before_reset :
    let s : State :=
      { active with
        pins := { active.pins with pfailN := false, pfailDue := true }
        portB := portWith (waiter .read 0x6000#18 0 .arbiter .memory) }
    (after (.resetNFalling 160) s).part = .pfail ∧ (after (.resetNFalling 160) s).portB.recorded = none := by
  decide

/-- R180: PFAIL_N low at the end of an ignored pulse is taken as a fall. -/
theorem test_short_pulse_end :
    (after (.shortResetPulseEnd false) active).part = .active ∧ (after (.shortResetPulseEnd true) active).part = .pfail := by
  decide

/-- R180: a pulse of 161 counted periods is not short; its reset still takes effect. -/
theorem test_pulse_of_161_periods :
    let s : State := { active with pins := { active.pins with resetN := false, resetLowPeriods := 161 } }
    (after (.shortResetPulseEnd false) s).pins = s.pins ∧ (after (.resetNFalling 1) s).pins.resetTaken = true := by
  decide

/-- R140, R143: after the release the first start-up read is requested. -/
theorem test_release :
    (after (.resetNRelease false) { active with pins := { active.pins with resetTaken := true, resetN := false } }).ldr.work
      = .startUpFormat := by decide

/-- R180, R140: the release of a pulse of 161 counted periods is the release of a reset, taken or not before it. -/
theorem test_release_of_due_reset :
    let s : State := { active with pins := { active.pins with resetN := false, resetLowPeriods := 161 } }
    (after (.resetNRelease false) s).part = .bypass ∧ (after (.resetNRelease false) s).pins = State.reset.pins
      ∧ (after (.resetNRelease false) s).live = none := by
  decide

/-- R143: both words 0001H start a load. -/
theorem test_start_up_qualifies :
    (after .startUpReadsQualify
      { bypass with
        ldr := { bypass.ldr with work := .startUpAutoload 1#16 }
        cycle := some { req := .loader, dir := .read, addr := 0x3F002#18, data := 1#16 } }).part = .loading := by
  decide

/-- R158, R159: a read in flight is answered FFFFH and the FILLING slot is freed. -/
theorem test_pfail_fall :
    (after .pfailNFalling
        { active with portB := portWith (waiter .read 0x6000#18 0 .arbiter .memory) }).portB.driven = some 0xFFFF#16
      ∧ (after .pfailNFalling { active with slots := slots1 (slot .filling 2 [(1, 1#16)]) }).freeSlots = 12 := by
  decide

/-- R69: B's session becomes BROKEN. -/
theorem test_hold_expiry :
    (after (.holdTimerExpiry 2)
      { activeWith { x2 with holdTimer := some 470 } x30 with
        time := 470, sessionsB := [{ region := 2, state := .open }] }).sessionsB = [{ region := 2, state := .broken }] := by
  decide

/-- Section 11.9, time 4,000,000: the STALE fault takes number 812 and the request is appended. -/
theorem test_deadline_expiry :
    (after (.deadlineExpiry 30)
        { activeWith x2 { x30 with deadline := some 4000000 } with
          time := 4000000, log := { active.log with nextSeq := 812 } }).log.inHand
        = some (.record { seq := 812, time := 4000000, detail := .stale 30 0x1E00 20 } 0 0)
      ∧ (after (.deadlineExpiry 30)
          { activeWith x2 { x30 with deadline := some 4000000 } with time := 4000000 }).diagQueue = [30] := by
  decide

/-- R171, Table 8-10: a WAIT record of port B's read of 20000H that waited for the arbiter: kind 4, port 1, direction 0,
address bits 17-16 10, cause 3. -/
theorem test_wait_expiry :
    ((after (.waitLimitExpiry .b)
      { bypass with time := 1000, portB := portWith (waiter .read 0x20000#18 0 .arbiter .memory) }).log.inHand.map
        fun i => match i with
          | .record f _ _ => [f.word 1, f.word 5, f.word 6]
          | .writeBack .. => []
          | .torn .. => []) = some [0x4028#16, 3#16, 0#16] := by decide

/-- R131: the line is asserted again when the holdoff is over. -/
theorem test_holdoff_expiry :
    (after .holdoffExpiry
      { active with time := 128, alert := { active.alert with pending := 1, mask := 0, holdoff := some 128 } }).alert.asserted
      = true := by decide

/-- R174: from pointer A with ports A and B waiting, A is granted and the pointer moves to B. -/
theorem test_grant :
    (after .arbiterGrant
      { bypass with
        portA := portWith (waiter .write 0x10#18 7 .arbiter .memory)
        portB := portWith (waiter .read 0x10#18 0 .arbiter .memory) }).cycle
        = some { req := .port .a, dir := .write, addr := 0x10#18, data := 7#16 }
      ∧ (after .arbiterGrant { bypass with portA := portWith (waiter .write 0x10#18 7 .arbiter .memory) }).pointer = .b := by
  decide

/-- R176: the write is stored, and the port is idle. -/
theorem test_completion :
    memRead (after .memoryCycleCompletion
      { bypass with cycle := some { req := .port .b, dir := .write, addr := 0x3FFFF#18, data := 7#16 } }).mem 0x3FFFF#18
      = 7#16 := by decide

/-- Section 11.7, time 220: the commit of the sealed slot starts when B has closed, with the OPENING write first. -/
theorem test_commit_start :
    (after .commitStart { active with slots := slots1 (slot .sealed 2 [(2, 0x222#16)]), commitQueue := [0] }).commit
        = some (commit2 .opening (some 2))
      ∧ (after .commitStart
          { active with
            slots := slots1 (slot .sealed 2 [(2, 0x222#16)]), commitQueue := [0]
            sessionsB := [{ region := 2, state := .open }] }).commit = none := by decide

/-- Section 11.7, time 231: the commit completes at generation 501, and B's waiting header read is taken: 501, OPEN. -/
theorem test_commit_completion :
    (after .commitCompletion
        { closing2 with portB := portWith (waiter .read 0x400#18 0 .commit (.readerHeader 2)) }).portB.driven
        = some 0x7D42#16
      ∧ ((after .commitCompletion closing2).region? 2).map Region.gen = some 501#10 := by decide

/-- Section 11.9, time 4,000,004: the scan of region 30 starts at condition 40. -/
theorem test_scan_start :
    (after .scanStart { active with diagQueue := [30] }).scan
      = some { region := 30, tag := 0x1E00, position := 40, step := .requested, recovered := false } := by decide

/-- Section 11.9, time 4,000,016: condition 41 reads 0000H and is unmet; the scan ends with DIAG. -/
theorem test_scan_end :
    (after .scanEnd
        { active with
          scan := some { region := 30, tag := 0x1E00, position := 41, step := .requested, recovered := false }
          cycle := some { req := .diag, dir := .read, addr := 0x6101#18, data := 0#16 } }).log.inHand
      = some (.record { seq := 0, time := 0, detail := .diag 30 0x1E00 true 41 0x6101 0 false } 0 0) := by decide

/-- Section 11.11: the record 500 is written at index 8 and P becomes 41. -/
theorem test_fault_record_end :
    (after .faultRecordEnd
      { active with
        log :=
          { active.log with
            producer := 40, consumer := 10
            inHand := some (.record { seq := 500, time := 0, detail := .protect .b 0x400 1 } 8 7) }
        cycle := some { req := .writer, dir := .write, addr := 0x3F657#18, data := 1#16 } }).log.producer = 41#6 := by
  decide

/-- Section 11.11: with occupancy 30 and one record waiting a fault is logged, with two it is lost with OVERFLOW. -/
theorem test_log_fills :
    ((({ active with log := { active.log with nextSeq := 500, producer := 40, consumer := 10 } } : State).raise
        (.protect .b 0x400 1)).raise (.protect .b 0x400 1)).alert.pending = 0x04#8
      ∧ (((({ active with log := { active.log with nextSeq := 500, producer := 40, consumer := 10 } } : State).raise
        (.protect .b 0x400 1)).raise (.protect .b 0x400 1)).raise (.protect .b 0x400 1)).alert.pending = 0x84#8 := by
  decide

/-- R101: the fourth access stores the check word and ends the write-back. -/
theorem test_write_back_end :
    (after .writeBackEnd
      { active with
        log := { active.log with inHand := some (.writeBack 30 18 3 20 0x1111) }
        cycle := some { req := .writer, dir := .write, addr := 0x3F005#18, data := 0x1117#16 } }).log.inHand = none
      ∧ InHand.access (.writeBack 30 18 3 20 0x1111) = (.write, 0x3F005#18, 0x1117#16) := by decide

/-- The 1551 words of a table whose words are all 0000H but the last. -/
def blankShadow : List Word := List.replicate 1551 0#16

/-- R145: a format word of 0000H fails with reason 1 before any other check. -/
theorem test_shadow_read_end :
    (after .shadowReadEnd
      { bypass with
        part := .loading
        ldr := { bypass.ldr with work := .shadowRead, shadow := some blankShadow, origin := some .bypass }
        cycle := some { req := .loader, dir := .read, addr := 0x3F60F#18, data := 0#16 } }).ldr.work
      = .clearFailure { code := 1, index := 0 } := by decide +kernel

/-- The first words of a table: format 1, wait limit 500, margin 2, and entry 3 of section 11.10 (base 01000H, length 6,
owner port A). The words that follow read as 0000H. -/
def words3 : List Word :=
  [1#16, 0#16, 1#16, 500#16, 2#16] ++ List.replicate 35 0#16 ++ [3#16, 0x1000#16, 0#16, 6#16]

/-- Section 11.10: the torn scan finds generation 77, COMMITTING: a TORN fault, and the rewrite queued behind it. -/
theorem test_torn_scan :
    (after .memoryCycleCompletion
        { bypass with
          part := .loading
          ldr := { bypass.ldr with work := .tornScan 3 [] [], shadow := some words3, origin := some .bypass }
          cycle := some { req := .loader, dir := .read, addr := 0x1000#18, data := 0x1350#16 } }).log.queue
      = [.torn 0x1000#18 77#10] := by decide

/-- Section 11.10: the swap leaves region 3 at generation 77, TORN, and the part in ACTIVE with wait limit 500. -/
theorem test_load_success :
    let t := after .loadSuccess
      { bypass with
        part := .loading
        ldr :=
          { bypass.ldr with
            work := .clearSuccess [{ region := 3, gen := 77, torn := true }], shadow := some words3
            origin := some .bypass }
        cycle := some clearing }
    t.part = .active ∧ t.ldr.waitLimit = 500 ∧ (t.region? 3).map (fun x => (x.gen, x.header)) = some (77#10, .torn) := by
  decide

/-- R149: OVERLAP (8) of entry 5 returns to ACTIVE with the retained table. -/
theorem test_load_failure :
    let t := after .loadFailure
      { bypass with
        part := .loading, retained := some (table x2 x30)
        ldr := { bypass.ldr with work := .clearFailure { code := 8, index := 5 }, shadow := some [], origin := some .active }
        cycle := some clearing }
    t.part = .active ∧ t.ldr.result.word = 0x0805#16 ∧ (t.region? 2).map Region.gen = some 500#10 := by decide

/-- R152: a drain with nothing left to do ends in LOADING for a pending LOAD. -/
theorem test_drain_end :
    (after .drainEnd { active with part := .draining, ldr := { active.ldr with command := some .load } }).part = .loading := by
  decide

/-- R153: the unload ends in BYPASS, LIVE CHECK 0. -/
theorem test_unload_end :
    let t := after .unloadEnd
      { active with
        part := .draining
        ldr := { active.ldr with command := some .unload, work := .clearUnload, liveCheck := 0x1234 }
        cycle := some clearing }
    t.part = .bypass ∧ t.ldr.liveCheck = 0#16 ∧ t.live = none := by decide

/-- R164: memory keeps what it held; the rest of the part is gone. -/
theorem test_loss_of_supply :
    (after .lossOfSupply { active with mem := [(5, 7#16)] }).mem = [(5, 7#16)]
      ∧ (after .lossOfSupply active).live = none := by decide

/-- Section 11.8: the coalescing seal keeps 0011H, takes 0222H over 0022H, and adds 0033H. -/
theorem test_coalesce :
    (after (.accessArrival .a false true 0x400#18 0#16)
      { active with
        slots := slots2 (slot .sealed 2 [(1, 0x11#16), (2, 0x22#16)]) (slot .filling 2 [(2, 0x222#16), (3, 0x33#16)])
        commitQueue := [0] }).slots[0] = slot .sealed 2 [(1, 0x11#16), (2, 0x222#16), (3, 0x33#16)] := by decide

/-! ## States and operands that meet the hypotheses of the statements, clause by clause -/

/-- Region 2 is reached at its header word and at its last word by either port. -/
theorem active_accesses (p : Port) : active.accessesRegion p 0x400#18 2 x2 ∧ active.accessesRegion p 0x406#18 2 x2 := by
  cases p <;> exact ⟨⟨⟨by decide, by decide⟩, by decide, by decide, by decide, by decide⟩,
    ⟨⟨by decide, by decide⟩, by decide, by decide, by decide, by decide⟩⟩

theorem witness_StepTakesFrontCommand :
    ({ active with pending := [.commitStart, .arbiterGrant] } : State).pending = .commitStart :: [.arbiterGrant] := rfl

theorem witness_EveryCommandAnswersAndTakesNoTime :
    (∀ n, Instr.arbiterGrant ≠ .resetNFalling n) ∧ (∀ b, Instr.arbiterGrant ≠ .resetNRelease b)
      ∧ Instr.arbiterGrant ≠ .lossOfSupply := by
  simp

/-- With REFCLK running, RESET_N high or low, and with REFCLK stopped. -/
theorem witness_IdleStepCountsOneMicrosecond :
    (active.pending = [] ∧ active.running = true ∧ active.dueEvents = [] ∧ active.pins.refclk = true)
      ∧ (let s : State := { active with pins := { active.pins with resetN := false, resetLowPeriods := 159 } }
         s.pending = [] ∧ s.running = true ∧ s.dueEvents = [] ∧ s.pins.refclk = true)
      ∧ (let s : State := { active with pins := { active.pins with refclk := false } }
         s.pending = [] ∧ s.running = true ∧ s.dueEvents = [] ∧ s.pins.refclk = false) := by
  decide

/-- Region 2's hold timer is due at 470, alone and with the holdoff. -/
def due470 (holdoff : Option Time) : State :=
  { activeWith { x2 with holdTimer := some 470 } x30 with time := 470, alert := { active.alert with holdoff := holdoff } }

/-- A part in a reset; one event due, and two; one of each kind. -/
theorem witness_DueEventsAreTaken :
    ({ active with pins := { active.pins with resetTaken := true } } : State).running = false
      ∧ ((due470 none).pending = [] ∧ (due470 none).dueEvents = [.holdTimerExpiry 2])
      ∧ (due470 (some 470)).dueEvents = [.holdTimerExpiry 2, .holdoffExpiry]
      ∧ ({ activeWith x2 { x30 with deadline := some 9 } with time := 9 } : State).dueEvents = [.deadlineExpiry 30]
      ∧ ({ bypass with time := 1000, portB := portWith (waiter .read 0 0 .arbiter .memory) } : State).dueEvents
          = [.waitLimitExpiry .b]
      ∧ ({ active with pins := { active.pins with resetN := false, resetLowPeriods := 160 } } : State).dueEvents
          = [.resetNFalling 160]
      ∧ ({ bypass with pins := { bypass.pins with pfailDue := true, pfailN := false } } : State).dueEvents
          = [.pfailNFalling] := by
  decide

/-- R88: the step on the empty queue takes the hold timer's expiry at its count, and no time passes. -/
theorem test_due_expiry_is_taken :
    step (due470 none) = exec (.holdTimerExpiry 2) (due470 none) ∧ (after (.holdTimerExpiry 2) (due470 none)).time = 470 :=
  ⟨rfl, by decide⟩

/-- Timers that do not run; timers a count before and after their time; REFCLK stopped; no region live; a GRANTED access. -/
theorem witness_TimersNotDueDoNotExpire :
    (active.alert.holdoff = none ∧ active.region? 2 = some x2 ∧ x2.holdTimer = none ∧ x2.deadline = none
        ∧ (active.port .a).access = none)
      ∧ (some 470#32 ≠ some 469#32 ∧ some 470#32 ≠ some 471#32)
      ∧ ({ due470 none with pins := { active.pins with refclk := false } } : State).pins.refclk = false
      ∧ (let s : State := { due470 none with part := .pfail }
         s.part ≠ .active ∧ s.part ≠ .draining)
      ∧ ({ waiter .read 0 0 .arbiter .memory with phase := .granted, timer := none } : Access).phase = .granted := by
  decide

/-- A sealed slot of region 2, an OPEN session of port B on region 2, a fault record in hand, an unmasked cause pending, two
words of memory, and the commit start waiting in the queue. -/
def sound : State :=
  { active with
    pending := [.commitStart]
    mem := [(3, 5#16), (0x400, 0x7D00#16)]
    slots := slots1 (slot .sealed 2 [(2, 0x222#16)])
    commitQueue := [0]
    sessionsB := [{ region := 2, state := .broken }]
    log := { active.log with inHand := some (.record { seq := 0, time := 0, detail := .load 11 0 } 0 0) }
    alert := { active.alert with pending := 0x40, mask := 0, asserted := true } }

theorem sound_steps : ∃ t, step sound = .next t ∧ t.commit.isSome = true := ⟨_, rfl, by decide⟩

theorem witness_StepKeepsMemoryCanonical : sound.memCanonical ∧ ∃ t, step sound = .next t :=
  ⟨by unfold State.memCanonical; decide, _, rfl⟩

theorem witness_StepKeepsAlertLineExact : sound.alertExact ∧ ∃ t, step sound = .next t :=
  ⟨by unfold State.alertExact; decide, _, rfl⟩

theorem witness_StepKeepsSessionTablesSound : sound.sessionsSound ∧ ∃ t, step sound = .next t :=
  ⟨by unfold State.sessionsSound tableSound; decide, _, rfl⟩

theorem witness_StepKeepsFaultLogBounded : sound.logBounded ∧ ∃ t, step sound = .next t :=
  ⟨by unfold State.logBounded; decide, _, rfl⟩

theorem witness_StepKeepsCommitQueueExact :
    sound.queueExact ∧ sound.slotsExact ∧ sound.wordsRising ∧ ∃ t, step sound = .next t :=
  ⟨⟨by decide, by decide, fun c h => by simp [sound, active, activeWith, bypass, State.reset] at h⟩,
    ⟨by decide, by decide, by decide, by decide⟩, by unfold State.wordsRising; decide, _, rfl⟩

/-- A reset taken, and one that is due at exactly 160 periods. -/
theorem witness_PfailIsLeftOnlyThroughReset :
    (∃ s t : State, s.part = .pfail ∧ s.pins.resetTaken = true ∧ exec (.resetNRelease false) s = .next t ∧ t.part ≠ .pfail)
      ∧ ∃ s t : State, s.part = .pfail ∧ s.pins.resetLowPeriods = 160 ∧ exec (.resetNRelease false) s = .next t
          ∧ t.part ≠ .pfail :=
  ⟨⟨{ active with part := .pfail, pins := { active.pins with resetTaken := true, resetN := false } }, _, rfl, rfl, rfl,
      by decide⟩,
    ⟨{ active with part := .pfail, pins := { active.pins with resetLowPeriods := 160, resetN := false } }, _, rfl, rfl, rfl,
      by decide⟩⟩

theorem witness_GenerationChangesOnlyAtCompletionOrLoad :
    ∃ (t : State) (x y : Region), closing2.retained = none ∧ exec .commitCompletion closing2 = .next t
      ∧ closing2.region? 2 = some x ∧ t.region? 2 = some y ∧ y.gen ≠ x.gen :=
  ⟨after .commitCompletion closing2, { x2 with header := .committing }, { x2 with gen := 501 }, rfl, rfl, by decide,
    by decide, by decide⟩

theorem witness_MemoryChangesOnlyByTheCarriedWrite :
    ∃ s t : State, exec .memoryCycleCompletion s = .next t ∧ memRead t.mem 0x3FFFF#18 ≠ memRead s.mem 0x3FFFF#18 :=
  ⟨{ bypass with cycle := some { req := .port .b, dir := .write, addr := 0x3FFFF#18, data := 7#16 } }, _, rfl, by decide⟩

theorem witness_StatusRowsAreArrivals :
    statusWritable .a 0 = false ∧ statusWritable .a 5 = false ∧ statusWritable .a 15 = false ∧ statusWritable .b 2 = false := by
  decide

/-- Strobes that lift; no supply; strobes held; an access in flight whose strobes have lifted; RESET_N in effect with and without a
recorded access. -/
theorem witness_PortsTakeOneAccessAtATime :
    bypass.pins.powered = true
      ∧ ({ bypass with pins := { bypass.pins with powered := false } } : State).pins.powered = false
      ∧ (({ bypass with portA := { PortRec.idle with strobes := true } } : State).port .a).strobes = true
      ∧ (let s : State := { bypass with portA := { portWith (waiter .read 0 0 .arbiter .memory) with strobes := false } }
         s.running = true ∧ (s.port .a).access.isSome = true ∧ (s.port .a).strobes = false)
      ∧ (let s : State := { bypass with pins := { bypass.pins with resetTaken := true } }
         s.pins.powered = true ∧ s.pins.resetTaken = true ∧ (s.port .a).strobes = false ∧ (s.port .a).recorded = none)
      ∧ (let s : State :=
           { bypass with
             pins := { bypass.pins with resetTaken := true }
             portA := { PortRec.idle with recorded := some { dir := .read, addr := 0, value := 0 } } }
         s.pins.powered = true ∧ s.pins.resetTaken = true ∧ (s.port .a).strobes = false
          ∧ (s.port .a).recorded.isSome = true) := by
  decide

theorem witness_PfailEndsEveryArrival (p : Port) :
    let s : State := { active with part := .pfail }
    s.portReady p ∧ s.part = .pfail := by
  cases p <;> exact ⟨⟨by decide, by decide⟩, by decide⟩

/-- LOADING: a Status Block write, and reads of the words on either side of the block; DRAINING: region 2's first and last
word; then no access, one access and two accesses that wait with cause LOAD. -/
theorem witness_AccessesWaitOutALoadAndAreTakenAfresh :
    (let s : State := { bypass with part := .loading }
     s.portReady .a ∧ s.part = .loading ∧ ¬ (0x3F710 ≤ (0x3F70F#18).toNat ∧ (0x3F70F#18).toNat < 0x3F720)
      ∧ ¬ (0x3F710 ≤ (0x3F720#18).toNat ∧ (0x3F720#18).toNat < 0x3F720))
      ∧ (let s : State := { active with part := .draining }
         s.portReady .b ∧ s.part = .draining ∧ (s.regionAt 0x400#18).isSome = true ∧ (s.regionAt 0x406#18).isSome = true)
      ∧ (bypass.waitsOnLoad .a = false ∧ bypass.waitsOnLoad .b = false)
      ∧ (let s : State := { bypass with portA := portWith (waiter .read 0 0 .load .unclassed) }
         (s.port .a).access = some (waiter .read 0 0 .load .unclassed) ∧ s.waitsOnLoad (Port.a).other = false)
      ∧ (let s : State :=
           { bypass with
             portA := portWith (waiter .read 0 0 .load .unclassed), portB := portWith (waiter .write 1 2 .load .unclassed) }
         s.portA.access = some (waiter .read 0 0 .load .unclassed)
          ∧ s.portB.access = some (waiter .write 1 2 .load .unclassed)
          ∧ (waiter .write 1 2 .load .unclassed).phase = .held .load)
      ∧ (waiter .read 0 0 .load .unclassed).phase = .held .load := by
  unfold State.portReady; decide

/-- BYPASS at any word; ACTIVE just below region 2, just above it and at the last word below the Control Area; ACTIVE reads of
3F000H, port A's write of 3F60FH and a write of 3F720H. -/
theorem witness_PermittedAccessesClaimTheMemoryPort :
    (bypass.portReady .b ∧ bypass.part = .bypass ∧ ¬ (0x3F710 ≤ (0x3F70F#18).toNat ∧ (0x3F70F#18).toNat < 0x3F720))
      ∧ (active.portReady .b ∧ active.part = .active)
      ∧ (active.regionAt 0x3FF#18 = none ∧ active.regionAt 0x407#18 = none ∧ active.regionAt 0x3EFFF#18 = none)
      ∧ ((0x3EFFF#18).toNat < 0x3F000 ∧ 0x3F000 ≤ (0x3F000#18).toNat ∧ (0x3F60F#18).toNat < 0x3F610
          ∧ 0x3F710 ≤ (0x3F720#18).toNat) := by
  unfold State.portReady; decide

theorem witness_StatusBlockReadAnswersAtOnce (p : Port) : active.portReady p ∧ active.part ≠ .pfail := by
  cases p <;> exact ⟨⟨by decide, by decide⟩, by decide⟩

theorem witness_AlertCommandsSetTheAlertUnit :
    (active.portReady .a ∧ active.part ≠ .loading ∧ active.part ≠ .pfail)
      ∧ (let s : State := { active with time := 128, alert := { active.alert with holdoff := some 128 } }
         s.running = true ∧ s.pins.refclk = true ∧ s.alert.holdoff = some s.time) := by
  unfold State.portReady; decide

theorem witness_FaultConsumerWriteConsumes :
    active.part ≠ .loading ∧ active.part ≠ .pfail ∧ active.portReady .a ∧ active.portReady .b := by
  unfold State.portReady; decide

/-- The Status Block words; the Fault Log's first and last word; port B at the table's first and last word; port B as the
reader of region 2 at its first and last word. -/
theorem witness_RefusedWritesOnlyRaiseProtect :
    (active.portReady .a ∧ active.portReady .b ∧ active.part = .active)
      ∧ ((5 : Fin 16) ∉ ([2, 3, 4, 6] : List (Fin 16)))
      ∧ (0x3F610 ≤ (0x3F610#18).toNat ∧ (0x3F70F#18).toNat < 0x3F710)
      ∧ (0x3F000 ≤ (0x3F000#18).toNat ∧ (0x3F60F#18).toNat < 0x3F610)
      ∧ active.accessesRegion .b 0x400#18 2 x2 ∧ active.accessesRegion .b 0x406#18 2 x2 ∧ x2.entry.writer = Port.other .b :=
  ⟨⟨⟨by decide, by decide⟩, ⟨by decide, by decide⟩, by decide⟩, by decide, by decide, by decide, (active_accesses .b).1,
    (active_accesses .b).2, by decide⟩

/-- Occupancy 31 with no record waiting is logged, 32 is not. -/
theorem witness_FaultDetectionNumbersLogsAndAlerts :
    (let s : State := { active with log := { active.log with producer := 31 } }
     s.part ≠ .pfail ∧ s.log.occupancy + s.log.recordCount < 32 ∧ s.log.recordCount < 8 ∧ s.log.inHand = none
      ∧ s.log.queue = [])
      ∧ (let s : State := { active with log := { active.log with producer := 32 } }
         ¬ (s.part ≠ .pfail ∧ s.log.occupancy + s.log.recordCount < 32 ∧ s.log.recordCount < 8))
      ∧ (sound.log.inHand.isSome = true ∧ sound.part ≠ .pfail ∧ sound.log.occupancy + sound.log.recordCount < 32
          ∧ sound.log.recordCount < 8) := by
  decide

/-- Region 2 with a FILLING slot, written at its first and last body word. -/
theorem witness_OwnerBodyWriteGoesIntoTheFillingSlot :
    let s : State := { active with slots := slots1 (slot .filling 2 [(1, 1#16)]) }
    (s.accessesRegion .a 0x401#18 2 x2 ∧ s.accessesRegion .a 0x406#18 2 x2) ∧ x2.entry.writer = .a
      ∧ (0x401#18).toNat ≠ x2.entry.base.toNat ∧ s.fillingLink 2 = some 0 ∧ cellsRising s.slots[0].words = true :=
  ⟨⟨⟨⟨by decide, by decide⟩, by decide, by decide, by decide, by decide⟩,
    ⟨⟨by decide, by decide⟩, by decide, by decide, by decide, by decide⟩⟩, by decide, by decide, by decide, by decide⟩

/-- A FREE slot to take; S+C; no FREE slot, for a body write and for a seal. -/
theorem witness_OwnerWriteTakesASlotOrWaits :
    (active.accessesRegion .a 0x406#18 2 x2 ∧ active.fillingLink 2 = none ∧ active.waiting = [] ∧ active.sealedLink 2 = none
        ∧ active.slots[0].state = .free ∧ ∀ j : Fin 12, j < 0 → active.slots[j].state ≠ .free)
      ∧ (let s : State := { active with slots := slots2 (slot .sealed 2 [(1, 1#16)]) (slot .committing 2 [(2, 2#16)]) }
         s.accessesRegion .a 0x401#18 2 x2 ∧ s.fillingLink 2 = none
          ∧ ((s.sealedLink 2).isSome = true ∧ (s.committingLink 2).isSome = true))
      ∧ (let s : State := { active with slots := fullSlots (slot .sealed 30 []) }
         (s.accessesRegion .a 0x401#18 2 x2 ∧ s.accessesRegion .a 0x400#18 2 x2) ∧ s.fillingLink 2 = none
          ∧ s.sealedLink 2 = none ∧ ∀ j : Fin 12, s.slots[j].state ≠ .free) :=
  ⟨⟨(active_accesses .a).2, by decide, by decide, by decide, by decide, by decide⟩,
    ⟨⟨⟨by decide, by decide⟩, by decide, by decide, by decide, by decide⟩, by decide, by decide⟩,
    ⟨⟨⟨⟨by decide, by decide⟩, by decide, by decide, by decide, by decide⟩,
      ⟨⟨by decide, by decide⟩, by decide, by decide, by decide, by decide⟩⟩, by decide, by decide, by decide⟩⟩

/-- A seal on F, and a seal on none with slot 0 FREE. -/
theorem witness_SealMakesASealedSlot :
    (let s : State := { active with slots := slots1 (slot .filling 2 [(1, 1#16)]) }
     s.accessesRegion .a 0x400#18 2 x2 ∧ s.sealedLink 2 = none ∧ s.fillingLink 2 = some 0)
      ∧ (active.accessesRegion .a 0x400#18 2 x2 ∧ x2.entry.writer = .a ∧ (0x400#18).toNat = x2.entry.base.toNat
          ∧ active.sealedLink 2 = none ∧ active.fillingLink 2 = none ∧ active.slots[0].state = .free
          ∧ ∀ j : Fin 12, j < 0 → active.slots[j].state ≠ .free) :=
  ⟨⟨⟨⟨by decide, by decide⟩, by decide, by decide, by decide, by decide⟩, by decide, by decide⟩,
    (active_accesses .a).1, by decide, by decide, by decide, by decide, by decide, by decide⟩

/-- Section 11.8's slots 0 and 1 in region 2. -/
theorem witness_SealCoalescesIntoTheSealedSlot :
    let s : State :=
      { active with
        slots := slots2 (slot .sealed 2 [(1, 0x11#16), (2, 0x22#16)]) (slot .filling 2 [(2, 0x222#16), (3, 0x33#16)]) }
    s.accessesRegion .a 0x400#18 2 x2 ∧ x2.entry.writer = .a ∧ (0x400#18).toNat = x2.entry.base.toNat
      ∧ s.fillingLink 2 = some 1 ∧ s.sealedLink 2 = some 0 ∧ cellsRising s.slots[1].words = true
      ∧ cellsRising s.slots[0].words = true :=
  ⟨⟨⟨by decide, by decide⟩, by decide, by decide, by decide, by decide⟩, by decide, by decide, by decide, by decide,
    by decide, by decide⟩

theorem witness_AbsorbedSealChangesNothing :
    let s : State := { active with slots := slots1 (slot .sealed 2 [(1, 1#16)]), commitQueue := [0] }
    s.accessesRegion .a 0x400#18 2 x2 ∧ x2.entry.writer = .a ∧ (0x400#18).toNat = x2.entry.base.toNat
      ∧ s.fillingLink 2 = none ∧ s.sealedLink 2 = some 0 :=
  ⟨⟨⟨by decide, by decide⟩, by decide, by decide, by decide, by decide⟩, by decide, by decide, by decide, by decide⟩

/-- A body write of region 2 that waits, and a seal of region 30 behind it. -/
def waitA : WaitEntry := { port := .a, region := 2, ask := .body 3, value := 7, order := 0 }
def waitB : WaitEntry := { port := .b, region := 30, ask := .seal, value := 0, order := 1 }

/-- S+C; no FREE slot, for a body write and for a seal; a seal and a body write that are given slot 0; one FREE slot for two
entries; an entry whose region holds S+C ahead of an eligible one. -/
theorem witness_WaitingWritesAreServedInOrderOfArrival :
    (waitA.ask = .body 3 ∧ waitB.ask = .seal ∧ waitB.port ≠ waitA.port ∧ waitA.port ≠ waitB.port)
      ∧ (let s : State :=
           { active with
             waiting := [waitA], slots := slots2 (slot .sealed 2 [(1, 1#16)]) (slot .committing 2 [(2, 2#16)]) }
         s.waiting = [waitA] ∧ s.holdsSealedAndCommitting waitA.region = true)
      ∧ (let s : State := { active with waiting := [waitA], slots := fullSlots (slot .sealed 30 []) }
         s.waiting = [waitA] ∧ s.holdsSealedAndCommitting waitA.region = false ∧ s.freeSlot = none)
      ∧ (let s : State := { active with waiting := [waitB] }
         s.waiting = [waitB] ∧ s.fillingLink waitB.region = none ∧ s.sealedLink waitB.region = none ∧ s.freeSlot = some 0
          ∧ s.region? waitB.region = some x30)
      ∧ (let s : State := { active with waiting := [waitA, waitB], slots := fullSlots Slot.empty }
         s.waiting = [waitA, waitB] ∧ s.holdsSealedAndCommitting waitA.region = false ∧ s.fillingLink waitA.region = none
          ∧ s.freeSlot = some 0 ∧ ∀ j : Fin 12, j ≠ 0 → s.slots[j].state ≠ .free)
      ∧ (let d : WaitEntry := { port := .b, region := 30, ask := .body 1, value := 5, order := 0 }
         let s : State :=
           { active with
             waiting := [d, waitA], slots := slots2 (slot .sealed 30 [(1, 1#16)]) (slot .committing 30 [(2, 2#16)]) }
         s.waiting = [d, waitA] ∧ d.port ≠ waitA.port ∧ d.ask = .body 1 ∧ s.holdsSealedAndCommitting d.region = true
          ∧ s.holdsSealedAndCommitting waitA.region = false ∧ s.fillingLink waitA.region = none ∧ s.freeSlot = some 2) := by
  decide

/-- Two waiting writes of two regions, each a body write or a seal, with one FREE slot and with two, and with region 2 holding
S+C. -/
theorem witness_TwoWaitingWritesAreServedInTurn :
    ∀ ask ∈ [StageAsk.body 1, .seal], ∀ ask' ∈ [StageAsk.body 6, .seal],
    let e : WaitEntry := { waitB with ask := ask }
    let d : WaitEntry := { waitA with ask := ask' }
    let one : State := { active with waiting := [e, d], slots := (Vector.replicate 12 (slot .sealed 9 [])).set 0 Slot.empty }
    let two : State := { one with slots := one.slots.set 5 Slot.empty }
    (d.port ≠ e.port ∧ d.region ≠ e.region) ∧ one.freeSlots = 1 ∧ two.freeSlots = 2
      ∧ (∀ w ∈ [e, d], one.fillingLink w.region = none ∧ one.sealedLink w.region = none)
      ∧ (∀ w ∈ [e, d], two.fillingLink w.region = none ∧ two.sealedLink w.region = none)
      ∧ (let both : State := { active with slots := slots2 (slot .sealed 2 [(1, 1#16)]) (slot .committing 2 [(2, 2#16)]) }
         both.fillingLink 2 = none ∧ both.holdsSealedAndCommitting 2 = true) := by
  decide

theorem witness_OwnerHeaderReadIsComposed :
    active.accessesRegion .a 0x400#18 2 x2 ∧ x2.entry.writer = .a ∧ (0x400#18).toNat = x2.entry.base.toNat :=
  ⟨(active_accesses .a).1, by decide, by decide⟩

theorem witness_OwnerBodyReadTakesTheNewestValue :
    active.accessesRegion .a 0x406#18 2 x2 ∧ x2.entry.writer = .a ∧ (0x406#18).toNat ≠ x2.entry.base.toNat :=
  ⟨(active_accesses .a).2, by decide, by decide⟩

/-- Eight sessions, on regions 40 to 47. -/
def eightSessions : List Session :=
  [40, 41, 42, 43, 44, 45, 46, 47].map fun r => { region := r, state := .open }

/-- ACTIVE with regions 2 and 40 to 47, all read by port B. -/
def manyRegions : State :=
  { active with
    live := some
      { regions := Vector.ofFn fun r : Fin 64 => if r = 2 ∨ 40 ≤ r ∧ r ≤ 47 then some x2 else none, conds := pool } }

/-- With an empty table, and with a full table of eight entries. -/
theorem witness_ReaderHeaderReadOpensASession :
    (active.accessesRegion .b 0x400#18 2 x2 ∧ x2.entry.writer = Port.other .b ∧ (0x400#18).toNat = x2.entry.base.toNat
        ∧ x2.header ≠ .committing ∧ active.sessionsSound ∧ sessionIn (active.sessions .b) 2 = none
        ∧ ∀ e ∈ active.sessions .b, ∃ y, active.region? e.region = some y ∧ y.entry.writer = Port.other .b)
      ∧ (let s : State := { manyRegions with sessionsB := eightSessions }
         s.accessesRegion .b 0x400#18 2 x2 ∧ s.sessionsSound ∧ sessionIn (s.sessions .b) 2 = none
          ∧ (∀ e ∈ s.sessions .b, ∃ y, s.region? e.region = some y ∧ y.entry.writer = Port.other .b)
          ∧ 8 ≤ (s.sessions .b).length) :=
  ⟨⟨(active_accesses .b).1, by decide, by decide, by decide, by unfold State.sessionsSound tableSound; decide, by decide,
      by intro e h; cases h⟩,
    ⟨⟨by decide, by decide⟩, by decide, by decide, by decide, by decide⟩,
    by unfold State.sessionsSound tableSound; decide, by decide,
    by
      intro e h
      refine ⟨x2, ?_, by decide⟩
      revert h; revert e
      decide,
    by decide⟩

theorem witness_ReaderHeaderReadClosesTheSession :
    let s : State := { active with sessionsB := [{ region := 30, state := .open }, { region := 2, state := .broken }] }
    s.accessesRegion .b 0x400#18 2 x2 ∧ x2.entry.writer = Port.other .b ∧ (0x400#18).toNat = x2.entry.base.toNat
      ∧ x2.header ≠ .committing ∧ s.sessionsSound ∧ sessionIn (s.sessions .b) 2 = some { region := 2, state := .broken } :=
  ⟨⟨⟨by decide, by decide⟩, by decide, by decide, by decide, by decide⟩, by decide, by decide, by decide,
    by unfold State.sessionsSound tableSound; decide, by decide⟩

theorem witness_ReaderReadsWaitOutACommit :
    let x := { x2 with header := .committing }
    (committing2 .opening (some 2)).accessesRegion .b 0x400#18 2 x
      ∧ (committing2 .opening (some 2)).accessesRegion .b 0x406#18 2 x ∧ x.entry.writer = Port.other .b
      ∧ x.header = .committing :=
  ⟨⟨⟨by decide, by decide⟩, by decide, by decide, by decide, by decide⟩,
    ⟨⟨by decide, by decide⟩, by decide, by decide, by decide, by decide⟩, by decide, by decide⟩

theorem witness_HoldTimerExpiryBreaksTheSession :
    let x := { x2 with holdTimer := some 470#32 }
    let s : State := { activeWith x x30 with time := 470 }
    s.running = true ∧ s.pins.refclk = true ∧ s.part = .active ∧ s.region? 2 = some x ∧ x.holdTimer = some s.time := by
  decide

/-- In ACTIVE with a diagnosis to request, and in DRAINING. -/
theorem witness_DeadlineExpiryMarksStaleAndRequestsADiagnosis :
    let x := { x30 with deadline := some 4000000#32 }
    let s : State := { activeWith x2 x with time := 4000000 }
    (s.running = true ∧ s.pins.refclk = true ∧ s.part = .active ∧ s.region? 30 = some x ∧ x.deadline = some s.time
        ∧ 0 < x.entry.condCount ∧ (30 : Fin 64) ∉ s.diagQueue ∧ s.scan = none)
      ∧ ({ s with part := .draining } : State).region? 30 = some x := by
  decide

theorem witness_WaitLimitExpiryEndsTheAccess :
    let a := waiter .read 0x20000#18 0 .arbiter .memory
    let s : State := { bypass with time := 1000, portB := portWith a }
    s.running = true ∧ s.pins.refclk = true ∧ (s.port .b).access = some a ∧ a.timer = some s.time ∧ a.phase = .held .arbiter := by
  decide

/-- No cycle carried, and a cycle carried, for each place of the pointer. -/
theorem witness_GrantGoesToTheFirstClaimantInRotation :
    bypass.running = true ∧ bypass.cycle = none
      ∧ ({ bypass with cycle := some clearing } : State).cycle.isSome = true
      ∧ (bypass.pointer, Claimant.a, Claimant.b, Claimant.internal)
          ∈ ([(.a, .a, .b, .internal), (.b, .b, .internal, .a), (.internal, .internal, .a, .b)]
              : List (Claimant × Claimant × Claimant × Claimant)) := by
  decide

/-- A commit; the Loader alone; the Record Writer alone; PFAIL with nothing; the Diagnosis Engine alone; a port A write of the
check word that a write-back holds back, also while its first read is carried, and one that it does not. -/
theorem witness_ClaimsFollowTheFixedPriority :
    (committing2 .opening (some 2)).commit.isSome = true
      ∧ (State.reset.commit = none ∧ State.reset.part ≠ .pfail ∧ State.reset.ldr.work ≠ .idle)
      ∧ (sound.commit = none ∧ sound.ldr.work = .idle ∧ sound.log.inHand.isSome = true)
      ∧ (let s : State := { bypass with part := .pfail }
         s.commit = none ∧ s.log.inHand = none ∧ s.part = .pfail)
      ∧ (active.commit = none ∧ active.part = .active ∧ active.ldr.work = .idle ∧ active.log.inHand = none)
      ∧ (let a := waiter .write 0x3F005#18 9 .arbiter .memory
         let s : State :=
           { active with portA := portWith a, log := { active.log with inHand := some (.writeBack 30 18 1 20 0) } }
         (s.port .a).access = some a ∧ a.phase = .held .arbiter ∧ a.dir = .write
          ∧ s.log.inHand = some (.writeBack 30 18 1 20 0) ∧ s.part ≠ .pfail)
      ∧ (let s : State :=
           { active with
             cycle := some { req := .writer, dir := .read, addr := periodAddr 30, data := 20#16 }
             log := { active.log with inHand := some (.writeBack 30 18 0 0 0) } }
         s.log.inHand = some (.writeBack 30 18 0 0 0) ∧ s.cycle.map Cycle.req = some .writer)
      ∧ (let a := waiter .write 0x3F004#18 9 .arbiter .memory
         let s : State := { active with portA := portWith a }
         (s.port .a).access = some a ∧ a.phase = .held .arbiter ∧ s.log.inHand = none) := by
  decide

/-- Each piece of the Loader's work, outside PFAIL with no commit. -/
theorem witness_TheLoaderClaimsItsAccess (w : LoaderWork) :
    let s : State := { bypass with ldr := { bypass.ldr with work := w, shadow := some words3 } }
    s.commit = none ∧ s.part ≠ .pfail ∧ s.ldr.work = w ∧ s.ldr.shadow.getD [] = words3 :=
  ⟨rfl, fun h => PartState.noConfusion h, rfl, rfl⟩

/-- In PFAIL a clearing write of the Loader and a condition read of the Diagnosis Engine; a PFAIL_N level still to be taken. -/
theorem witness_PfailDropsTheCarriedCycles :
    (let s : State := { bypass with part := .pfail, cycle := some clearing }
     s.running = true ∧ s.pins.pfailDue = false ∧ s.part = .pfail ∧ s.cycle = some clearing ∧ clearing.req = .loader)
      ∧ (let c : Cycle := { req := .diag, dir := .read, addr := 0x6100#18, data := 1#16 }
         let s : State := { active with part := .pfail, cycle := some c }
         s.part = .pfail ∧ s.cycle = some c ∧ c.req = .diag)
      ∧ (let s : State := { bypass with cycle := some clearing, pins := { bypass.pins with pfailDue := true } }
         s.running = true ∧ s.cycle = some clearing ∧ s.pins.pfailDue = true ∧ s.part ≠ .pfail) := by
  decide

/-- R116, R161: in PFAIL the Loader's clearing write is stored and nothing follows from it. -/
theorem test_clearing_write_in_pfail :
    let s : State :=
      { bypass with
        part := .pfail, mem := [(0x3F001, 1#16)], cycle := some clearing
        ldr := { bypass.ldr with origin := some .bypass, shadow := some [] } }
    (after .memoryCycleCompletion s).mem = [] ∧ (after .memoryCycleCompletion s).part = .pfail := by
  decide

/-- A read and a command word write that is no command, outside PFAIL and in it. -/
theorem witness_HostCycleCompletionAnswersTheHost :
    (let c : Cycle := commandCycle 3#16
     let s : State := { bypass with cycle := some c }
     s.running = true ∧ s.pins.pfailDue = false ∧ s.cycle = some c ∧ c.req = .port .a
      ∧ ¬ (Port.a = .a ∧ c.dir = .write ∧ c.addr = 0x3F001#18 ∧ (c.data = 1#16 ∨ c.data = 2#16)) ∧ s.part ≠ .pfail)
      ∧ (let c : Cycle := { req := .port .b, dir := .read, addr := 0x3F001#18, data := 1#16 }
         let s : State := { bypass with part := .pfail, cycle := some c }
         s.running = true ∧ s.pins.pfailDue = false ∧ s.cycle = some c ∧ c.req = .port .b
          ∧ ¬ (Port.b = .a ∧ c.dir = .write ∧ c.addr = 0x3F001#18 ∧ (c.data = 1#16 ∨ c.data = 2#16)) ∧ s.part = .pfail) := by
  decide

/-- A deferring region alone in the queue; an empty queue in ACTIVE and in DRAINING; a commit in
progress; BYPASS and PFAIL. -/
theorem witness_NoCommitStarts :
    (let s : State :=
       { active with
         slots := slots1 (slot .sealed 2 [(2, 2#16)]), commitQueue := [0], sessionsB := [{ region := 2, state := .open }] }
     s.part = .active ∧ s.slots[0].region = some 2 ∧ s.deferring 2 = true ∧ (s.sealedLink 2).isSome = true
      ∧ s.region? 2 = some x2 ∧ 0 < x2.entry.hold
      ∧ sessionIn (s.sessions x2.entry.writer.other) 2 = some { region := 2, state := .open })
      ∧ (active.part = .active ∧ active.commitQueue = [])
      ∧ ({ active with part := .draining } : State).commitQueue = []
      ∧ (committing2 .opening (some 2)).commit.isSome = true
      ∧ (bypass.part ≠ .active ∧ bypass.part ≠ .draining)
      ∧ (let s : State := { active with part := .pfail }
         s.part ≠ .active ∧ s.part ≠ .draining) := by
  decide

/-- A port with no access, with a GRANTED one, and with one HELD with cause COMMIT: none claims; BYPASS with the Loader at rest asks
for nothing. -/
theorem witness_NoClaimIsMade :
    bypass.portA.access = none
      ∧ ({ waiter .read 0 0 .arbiter .memory with phase := .granted, timer := none } : Access).phase ≠ .held .arbiter
      ∧ (waiter .read 0x401#18 0 .commit (.readerBody 2)).phase ≠ .held .arbiter
      ∧ (bypass.commit = none ∧ bypass.part = .bypass ∧ bypass.ldr.work = .idle ∧ bypass.log.inHand = none) := by
  decide

/-- R72: with every queued slot's region deferring no commit starts, and a body read that waits with cause COMMIT gets no grant. -/
theorem test_nothing_is_taken_that_must_wait :
    (let s : State :=
       { active with
         slots := slots1 (slot .sealed 2 [(2, 2#16)]), commitQueue := [0], sessionsB := [{ region := 2, state := .open }] }
     (after .commitStart s).commit = none)
      ∧ (after .arbiterGrant { active with portB := portWith (waiter .read 0x401#18 0 .commit (.readerBody 2)) }).cycle = none := by
  decide

/-- In ACTIVE slot 0 of region 30 is taken past the deferring slot 1 of region 2; in DRAINING the head is taken. -/
theorem witness_CommitStartTakesTheOldestSelectableSlot :
    (let s : State :=
       { active with
         slots := slots2 (slot .sealed 30 [(1, 1#16)]) (slot .sealed 2 [(2, 2#16)]), commitQueue := [1, 0]
         sessionsB := [{ region := 2, state := .open }] }
     s.running = true ∧ s.commit = none ∧ s.commitQueue = [1] ++ 0 :: [] ∧ (0 : Fin 12) ∉ [1] ++ ([] : List (Fin 12))
      ∧ s.slots[0].region = some 30 ∧ s.region? 30 = some x30 ∧ s.part = .active ∧ s.deferring 30 = false
      ∧ s.slots[1].region = some 2 ∧ s.deferring 2 = true)
      ∧ (let s : State :=
           { active with
             part := .draining, slots := slots1 (slot .sealed 2 [(2, 2#16)]), commitQueue := [0]
             sessionsB := [{ region := 2, state := .open }] }
         s.running = true ∧ s.commit = none ∧ s.commitQueue = [] ++ 0 :: [] ∧ s.slots[0].region = some 2
          ∧ s.region? 2 = some x2 ∧ s.part = .draining ∧ s.log.inHand = none) := by
  decide

/-- OPENING; BODY at the slot's last offset and before it; CLOSING. -/
theorem witness_CommitWritesInThreeSteps :
    (let s := committing2 .opening (some 2)
     s.commit = some (commit2 .opening (some 2)) ∧ (commit2 .opening (some 2)).step = .opening)
      ∧ (let cy : Cycle := { req := .commit, dir := .write, addr := 0x402#18, data := 0x222#16 }
         let s : State := { committing2 .body (some 2) with cycle := some cy }
         s.commit = some (commit2 .body (some 2)) ∧ cellsGet s.slots[0].words 2 = some 0x222#16 ∧ s.running = true
          ∧ s.pins.pfailDue = false ∧ s.cycle = some cy ∧ cy.req = .commit ∧ cy.dir = .write
          ∧ cellsRising s.slots[0].words = true ∧ ∀ o ∈ s.slots[0].words.map Prod.fst, o ≤ 2)
      ∧ (let s : State := { committing2 .body (some 2) with slots := slots1 (slot .committing 2 [(2, 1#16), (6, 1#16)]) }
         s.commit = some (commit2 .body (some 2)) ∧ cellsRising s.slots[0].words = true
          ∧ 6 ∈ s.slots[0].words.map Prod.fst)
      ∧ (closing2.commit = some (commit2 .closing none) ∧ (commit2 .closing none).step = .closing) := by
  decide

theorem witness_CommitCompletionAdvancesTheGeneration :
    let cy : Cycle := { req := .commit, dir := .write, addr := 0x400#18, data := 0x7D40#16 }
    (closing2.running = true ∧ closing2.pins.pfailDue = false ∧ closing2.commit = some (commit2 .closing none)
        ∧ closing2.cycle = some cy ∧ cy.req = .commit ∧ cy.dir = .write
        ∧ closing2.region? 2 = some { x2 with header := .committing } ∧ closing2.part ≠ .pfail)
      ∧ ({ closing2 with part := .pfail } : State).region? 2 = some { x2 with header := .committing } := by
  decide

/-- A region that is watched (30) and one that is not (2), with no access waiting. -/
theorem witness_CompletionRearmsTheDeadlineAndWithdrawsTheDiagnosis :
    (active.region? 30 = some x30 ∧ x30.entry.learn = false ∧ active.waiting = [] ∧ 0 < x30.entry.period)
      ∧ (active.region? 2 = some x2 ∧ x2.entry.learn = false ∧ ¬ 0 < x2.entry.period)
      ∧ ∀ p a, (active.port p).access = some a → a.phase ≠ .held .commit :=
  ⟨by decide, by decide, fun p a h => by cases p <;> cases h⟩

/-- Port B, region 2's reader, waiting with cause COMMIT: a body read; a header read with a session, with none, and with a full
table of other regions' sessions. -/
theorem witness_CompletionReleasesTheReader (t : List Session)
    (h : t = [] ∨ t = [{ region := 2, state := .broken }] ∨ t = eightSessions) :
    let body := waiter .read 0x401#18 0 .commit (.readerBody 2)
    let header := waiter .read 0x400#18 0 .commit (.readerHeader 2)
    let s : State := { manyRegions with sessionsB := t, portB := portWith header }
    (s.region? 2 = some x2 ∧ x2.entry.learn = false ∧ s.waiting = [] ∧ x2.entry.writer.other = .b ∧ x2.header = .clean)
      ∧ (s.port .b).access = some header ∧ header.phase = .held .commit ∧ header.cls = .readerHeader 2
      ∧ (({ s with portB := portWith body } : State).port .b).access = some body ∧ body.phase = .held .commit
      ∧ body.cls = .readerBody 2 ∧ s.portA.access = none ∧ s.sessionsSound
      ∧ ∀ e ∈ s.sessions .b, ∃ y, s.region? e.region = some y ∧ y.entry.writer = Port.other .b := by
  have hall : ∀ e ∈ ({ region := 2, state := .broken } :: eightSessions : List Session),
      ∃ y, manyRegions.region? e.region = some y ∧ y.entry.writer = Port.other .b := by
    intro e he
    refine ⟨x2, ?_, by decide⟩
    revert he; revert e
    decide
  rcases h with rfl | rfl | rfl
  · exact ⟨by decide, by decide, by decide, by decide, by decide, by decide, by decide, by decide,
      by unfold State.sessionsSound tableSound; decide, by intro e he; cases he⟩
  · exact ⟨by decide, by decide, by decide, by decide, by decide, by decide, by decide, by decide,
      by unfold State.sessionsSound tableSound; decide,
      fun e he => hall e (by rw [List.mem_singleton.1 he]; exact List.mem_cons_self)⟩
  · exact ⟨by decide, by decide, by decide, by decide, by decide, by decide, by decide, by decide,
      by unfold State.sessionsSound tableSound; decide, fun e he => hall e (List.mem_cons_of_mem _ he)⟩

/-- Region 2 learning, and not; port A's body write is given a slot, and port B, its reader, waits with cause COMMIT or has no
access. -/
theorem witness_CompletionServesThenReleases (learn : Bool) :
    let x : Region := { x2 with entry := { entry2 with learn := learn } }
    let header := waiter .read 0x400#18 0 .commit (.readerHeader 2)
    let s : State :=
      { activeWith x x30 with waiting := [waitA], portA := portWith (waiter .write 0x403#18 7 .slot .ownerWrite) }
    let t : State := { s with portB := portWith header }
    (s.serveWaiting.region? 2 = some x ∧ s.serveWaiting.waiting = [] ∧ s.serveWaiting.portA.access = none
        ∧ s.serveWaiting.portB.access = none)
      ∧ t.serveWaiting.region? 2 = some x ∧ (t.serveWaiting.port .b).access = some header ∧ header.phase = .held .commit
      ∧ header.cls = .readerHeader 2 ∧ x.header = .clean ∧ (t.serveWaiting.port .a).access = none
      ∧ sessionIn (t.sessions .b) 2 = none ∧ t.sessions .b = [] ∧ x.entry.writer.other = .b ∧ x.entry.learn = learn := by
  cases learn <;> decide

/-- Region 30 learning: the first sample; a later one of 15 ms after a longest interval of 14 ms, with a write-back of region 30
waiting behind another's, with none waiting and a record in hand, and with the Record Writer idle. -/
theorem witness_LearningSampleProposesAPeriod :
    let x := { x30 with entry := { entry30 with learn := true } }
    ((activeWith x2 x).region? 30 = some x ∧ x.entry.learn = true ∧ (activeWith x2 x).ldr.margin = some 3
        ∧ x.lastCommit = none)
      ∧ (let y := { x with lastCommit := some 5000#32, longest := 14 }
         let s : State := { activeWith x2 y with time := 20000 }
         s.region? 30 = some y ∧ y.entry.learn = true ∧ s.ldr.margin = some 3 ∧ y.lastCommit = some 5000#32
          ∧ (s.time - 5000#32).toNat = 15 * 1000 ∧ y.longest < 15)
      ∧ ([.writeBack 2 9, .writeBack 30 18] : List Item) = [.writeBack 2 9] ++ .writeBack 30 18 :: []
      ∧ (sound.log.queue = [] ∧ sound.log.inHand.isSome = true)
      ∧ (active.log.queue = [] ∧ active.log.inHand = none ∧ active.part ≠ .pfail) := by
  decide

theorem witness_ConditionComparesTheMaskedWord :
    let c : Condition := { addr := 0x6100#18, sense := .equal, mask := 0x8000#16, expected := 0x8000#16 }
    let sc : Scan := { region := 30, tag := 0x1E00, position := 40, step := .requested, recovered := false }
    active.condition sc.position = c ∧ c.sense = .equal ∧ c.met 0x7FFF#16 = false
      ∧ (active.condition 41).sense = .differ ∧ (active.condition 0).mask = 0#16 ∧ (active.condition 0).expected = 0#16
      ∧ (0x8000#16 &&& ~~~0x7FFF#16) ≠ 0#16 := by
  decide

/-- A scan in progress; an empty queue; PFAIL. -/
theorem witness_NoScanStarts :
    (let c : Scan := { region := 30, tag := 0x1E00, position := 40, step := .requested, recovered := false }
     ({ active with diagQueue := [2], scan := some c } : State).scan.isSome = true)
      ∧ active.diagQueue = []
      ∧ (let s : State := { active with part := .pfail, diagQueue := [2] }
         s.part ≠ .active ∧ s.part ≠ .draining) := by
  decide

theorem witness_ScanStartTakesTheHeadOfTheQueue :
    let s : State := { active with diagQueue := [30, 2] }
    s.running = true ∧ s.part = .active ∧ s.scan = none ∧ s.diagQueue = 30 :: [2] ∧ s.region? 30 = some x30 := by
  decide

/-- Condition 40 met and not the last; condition 41, the last, unmet and met. -/
theorem witness_ScanEndsAtTheFirstUnmetCondition :
    let sc : Scan := { region := 30, tag := 0x1E00, position := 40, step := .requested, recovered := false }
    let cy : Cycle := { req := .diag, dir := .read, addr := 0x6100#18, data := 0x8000#16 }
    let s : State := { active with cycle := some cy, scan := some sc }
    (s.running = true ∧ s.pins.pfailDue = false ∧ s.part ≠ .pfail ∧ s.cycle = some cy ∧ cy.req = .diag ∧ cy.dir = .read
        ∧ s.scan = some sc ∧ s.region? 30 = some x30 ∧ (s.condition 40).met cy.data = true
        ∧ sc.position < x30.entry.condFirst + x30.entry.condCount - 1)
      ∧ ((s.condition 41).met 0#16 = false ∧ (s.condition 41).met 1#16 = true
          ∧ x30.entry.condFirst + x30.entry.condCount - 1 ≤ 41) := by
  decide

/-- A record's writes up to the eighth, the four accesses of a write-back, and a TORN rewrite. -/
theorem witness_RecordWriterWritesItsItemsInOrder :
    let cy : Cycle := { req := .writer, dir := .write, addr := 0x3F617#18, data := 0#16 }
    let f : FaultRecord := { seq := 0, time := 0, detail := .load 11 0 }
    (let s : State := { active with cycle := some cy, log := { active.log with inHand := some (.record f 0 7) } }
     s.running = true ∧ s.pins.pfailDue = false ∧ s.cycle = some cy ∧ cy.req = .writer ∧ cy.dir = .write
      ∧ s.log.inHand = some (.record f 0 7))
      ∧ (let s : State := { active with cycle := some cy, log := { active.log with inHand := some (.writeBack 30 18 3 20 1) } }
         s.log.inHand = some (.writeBack 30 18 3 20 1))
      ∧ (let s : State := { active with log := { active.log with inHand := some (.record f 0 6) } }
         s.log.inHand = some (.record f 0 6) ∧ 6 < 7)
      ∧ (let s : State := { active with log := { active.log with inHand := some (.writeBack 30 18 2 20 1) } }
         s.log.inHand = some (.writeBack 30 18 2 20 1))
      ∧ (let s : State := { active with log := { active.log with inHand := some (.torn 0x400 7) } }
         s.log.inHand = some (.torn 0x400 7))
      ∧ (let rd : Cycle := { req := .writer, dir := .read, addr := 0x3F005#18, data := 1#16 }
         let s : State := { active with cycle := some rd, log := { active.log with inHand := some (.writeBack 30 18 1 20 0) } }
         s.cycle = some rd ∧ rd.req = .writer ∧ rd.dir = .read ∧ s.log.inHand = some (.writeBack 30 18 1 20 0))
      ∧ (let s : State := { active with log := { active.log with inHand := some (.writeBack 30 18 0 0 0) } }
         s.log.inHand = some (.writeBack 30 18 0 0 0)) := by
  decide

/-- LOAD and UNLOAD in each part state, and a write that waited with cause LOAD. -/
theorem witness_CommandsActByThePartState (part : PartState) :
    (let s : State := { bypass with part := part, cycle := some (commandCycle 1#16) }
     (Command.load, 1#16) ∈ [(Command.load, 1#16), (.unload, 2#16)] ∧ s.running = true ∧ s.pins.pfailDue = false
      ∧ s.cycle = some { req := .port .a, dir := .write, addr := 0x3F001#18, data := 1#16 } ∧ s.part = part
      ∧ ¬ ∃ a, s.portA.access = some a ∧ a.waitedLoad = true)
      ∧ (let s : State :=
           { bypass with
             part := part, cycle := some (commandCycle 2#16)
             portA := portWith (waiter .write 0x3F001#18 2 .load .unclassed) }
         (Command.unload, 2#16) ∈ [(Command.load, 1#16), (.unload, 2#16)] ∧ s.part = part
          ∧ ∃ a, s.portA.access = some a ∧ a.waitedLoad = true) := by
  refine ⟨⟨by decide, rfl, rfl, rfl, rfl, ?_⟩, by decide, rfl, _, rfl, rfl⟩
  intro ⟨a, h, _⟩
  cases h

theorem witness_DrainingEntryWithdrawsUnsealedWork :
    let s : State := { active with slots := slots2 (slot .filling 2 [(1, 1#16)]) (slot .filling 30 [(3, 2#16)]) }
    ∀ k : Fin 12, s.slots[k].state = .filling →
      ∃ r x, s.slots[k].region = some r ∧ s.region? r = some x ∧ s.fillingLink r = some k := by
  intro s k h
  have hk : k = 0 ∨ k = 1 := by revert h; revert k; decide
  rcases hk with rfl | rfl
  · exact ⟨2, x2, by decide, by decide, by decide⟩
  · exact ⟨30, x30, by decide, by decide, by decide⟩

/-- A drain not done; done with a LOAD and with an UNLOAD; the unload's clearing write carried. -/
theorem witness_DrainEndAndUnloadEndActOnTheCommand :
    let drained := fun s : State =>
      s.commitQueue = [] ∧ s.commit = none ∧ s.scan = none ∧ s.log.inHand = none ∧ s.log.queue = []
    (let s : State := { active with part := .draining, commitQueue := [0], ldr := { active.ldr with command := some .load } }
     s.running = true ∧ s.part = .draining ∧ s.ldr.work = .idle ∧ ¬ drained s)
      ∧ (let s : State := { active with part := .draining, ldr := { active.ldr with command := some .load } }
         s.running = true ∧ s.part = .draining ∧ s.ldr.work = .idle ∧ drained s ∧ s.ldr.command = some .load)
      ∧ (let s : State := { active with part := .draining, ldr := { active.ldr with command := some .unload } }
         s.ldr.work = .idle ∧ drained s ∧ s.ldr.command = some .unload)
      ∧ (let s : State :=
           { active with
             part := .draining, cycle := some clearing
             ldr := { active.ldr with command := some .unload, work := .clearUnload } }
         s.pins.pfailDue = false ∧ s.ldr.work = .clearUnload
          ∧ s.cycle = some { req := .loader, dir := .write, addr := 0x3F001#18, data := 0#16 }) := by
  decide

/-- The first start-up read carried; the shadow reads of words 0 and 1550. -/
theorem witness_StartUpAndShadowReadsGoOn (n : Nat) (h : n = 0 ∨ n = 1550) :
    (let c : Cycle := { req := .loader, dir := .read, addr := 0x3F000#18, data := 1#16 }
     let s : State := { State.reset with cycle := some c }
     s.running = true ∧ s.pins.pfailDue = false ∧ s.part = .bypass ∧ s.ldr.work = .startUpFormat ∧ s.cycle = some c)
      ∧ (let ws := List.replicate n 0#16
         let c : Cycle := { req := .loader, dir := .read, addr := BitVec.ofNat 18 (0x3F000 + ws.length), data := 5#16 }
         let s : State :=
           { bypass with
             part := .loading, cycle := some c
             ldr := { bypass.ldr with work := .shadowRead, shadow := some ws, origin := some .bypass } }
         s.running = true ∧ s.pins.pfailDue = false ∧ s.part = .loading ∧ s.ldr.work = .shadowRead
          ∧ s.ldr.shadow = some ws ∧ ws.length < 1551 ∧ s.cycle = some c) := by
  refine ⟨by decide, rfl, rfl, rfl, rfl, rfl, ?_, rfl⟩
  rw [List.length_replicate]
  omega

theorem witness_StartUpReadsDecideTheAutoload :
    let s : State :=
      { bypass with
        ldr := { bypass.ldr with work := .startUpAutoload 1#16 }
        cycle := some { req := .loader, dir := .read, addr := 0x3F002#18, data := 1#16 } }
    s.running = true ∧ s.pins.pfailDue = false ∧ s.part = .bypass ∧ s.ldr.work = .startUpAutoload 1#16
      ∧ s.cycle = some { req := .loader, dir := .read, addr := 0x3F002#18, data := 1#16 }
      ∧ ¬ ((1#16 : Word) = 1#16 ∧ (0#16 : Word) = 1#16) := by
  decide

/-- A torn-scan read of a cut commit with the Record Writer busy and idle, each with the ring at occupancy 31 or less and full. -/
theorem witness_TornRewriteJoinsTheQueue :
    let f : FaultRecord := { seq := 0, time := 0, detail := .load 11 0 }
    (let s : State := { bypass with log := { bypass.log with producer := 30, inHand := some (.record f 30 0) } }
     s.log.occupancy + s.log.recordCount = 31 ∧ s.log.recordCount < 8 ∧ s.log.inHand.isSome = true)
      ∧ (let s : State := { bypass with log := { bypass.log with producer := 31 } }
         s.log.occupancy + s.log.recordCount = 31 ∧ s.log.inHand = none ∧ s.log.queue = [])
      ∧ (let s : State := { bypass with log := { bypass.log with producer := 31, inHand := some (.record f 31 0) } }
         s.log.occupancy + s.log.recordCount = 32 ∧ s.log.inHand.isSome = true)
      ∧ (let s : State := { bypass with log := { bypass.log with producer := 32 } }
         s.log.occupancy + s.log.recordCount = 32 ∧ s.log.inHand = none ∧ s.log.queue = []) := by
  decide

/-- The last shadow read; the torn-scan read of an entry that was COMMITTING. -/
theorem witness_ShadowReadsAndTornScanFollowInOrder :
    (let s : State :=
       { bypass with
         part := .loading
         ldr := { bypass.ldr with work := .shadowRead, shadow := some blankShadow, origin := some .bypass }
         cycle := some { req := .loader, dir := .read, addr := 0x3F60F#18, data := 0#16 } }
     s.running = true ∧ s.pins.pfailDue = false ∧ s.part = .loading ∧ s.ldr.work = .shadowRead
      ∧ s.ldr.shadow = some blankShadow ∧ blankShadow.length = 1551
      ∧ s.cycle = some { req := .loader, dir := .read, addr := 0x3F60F#18, data := 0#16 })
      ∧ (let s : State :=
           { bypass with
             part := .loading
             ldr := { bypass.ldr with work := .tornScan 3 [] [], shadow := some words3, origin := some .bypass }
             cycle := some { req := .loader, dir := .read, addr := 0x1000#18, data := 77#10 ++ 0b01#2 ++ 0#4 } }
         s.running = true ∧ s.pins.pfailDue = false ∧ s.part = .loading ∧ s.ldr.work = .tornScan 3 [] []
          ∧ s.ldr.shadow = some words3
          ∧ s.cycle = some { req := .loader, dir := .read, addr := 0x1000#18, data := 77#10 ++ 0b01#2 ++ 0#4 }) :=
  ⟨⟨rfl, rfl, rfl, rfl, rfl, List.length_replicate, rfl⟩, rfl, rfl, rfl, rfl, rfl, rfl⟩

theorem witness_LoadSuccessPutsTheTableInForce :
    let found : List Found := [{ region := 3, gen := 77, torn := true }]
    let s : State :=
      { bypass with
        part := .loading
        ldr := { bypass.ldr with work := .clearSuccess found, shadow := some words3, origin := some .bypass }
        cycle := some clearing }
    s.running = true ∧ s.pins.pfailDue = false ∧ s.part = .loading ∧ s.ldr.work = .clearSuccess found
      ∧ s.ldr.shadow = some words3
      ∧ s.cycle = some { req := .loader, dir := .write, addr := 0x3F001#18, data := 0#16 }
      ∧ (entryWord words3 3 0).getLsbD 0 = true ∧ (entryWord words3 2 0).getLsbD 0 = false
      ∧ (found.find? fun f => f.region == 3) = some { region := 3, gen := 77, torn := true } := by
  decide

theorem witness_LoadFailureReturnsToTheOrigin (o : Origin) :
    let s : State :=
      { bypass with
        part := .loading, retained := some (table x2 x30)
        ldr := { bypass.ldr with work := .clearFailure { code := 8, index := 5 }, shadow := some [], origin := some o }
        cycle := some clearing }
    s.running = true ∧ s.pins.pfailDue = false ∧ s.part = .loading ∧ s.ldr.work = .clearFailure { code := 8, index := 5 }
      ∧ s.cycle = some { req := .loader, dir := .write, addr := 0x3F001#18, data := 0#16 } ∧ s.ldr.origin = some o := by
  cases o <;> decide

/-- A fall to take; a fall in PFAIL; a fall while a low pulse is timed. -/
theorem witness_PfailFallEntersPfail :
    (active.pins.powered = true ∧ active.part ≠ .pfail ∧ active.pins.resetN = true)
      ∧ ({ active with part := .pfail } : State).part = .pfail
      ∧ ({ active with pins := { active.pins with resetN := false } } : State).pins.resetN = false := by
  decide

/-- A reset already in effect; a PFAIL_N level still to be taken; REFCLK stopped; 159 periods; 160 periods named, and counted; a
short pulse's end at 159 counted periods and at 160. -/
theorem witness_ResetTakesEffectAfter160Periods :
    ({ active with pins := { active.pins with resetTaken := true } } : State).pins.resetTaken = true
      ∧ (let s : State := { active with pins := { active.pins with pfailDue := true } }
         s.running = true ∧ s.pins.pfailDue = true ∧ s.part ≠ .pfail)
      ∧ (let s : State := { active with pins := { active.pins with refclk := false } }
         s.running = true ∧ s.pins.pfailDue = false ∧ s.pins.refclk = false)
      ∧ (active.pins.pfailDue = false ∧ active.running = true ∧ active.pins.refclk = true
          ∧ max 159 active.pins.resetLowPeriods < 160)
      ∧ (active.pins.resetTaken = false ∧ 160 ≤ max 160 active.pins.resetLowPeriods)
      ∧ (let s : State := { active with pins := { active.pins with resetN := false, resetLowPeriods := 159 } }
         s.running = true ∧ s.pins.resetLowPeriods < 160)
      ∧ (let s : State := { active with pins := { active.pins with resetN := false, resetLowPeriods := 160 } }
         s.running = true ∧ 160 ≤ s.pins.resetLowPeriods ∧ 160 ≤ max 1 s.pins.resetLowPeriods) := by
  decide

/-- An access recorded at each port; a reset that is due at exactly 160 periods. -/
theorem witness_ReleaseTakesBothAccessesAndADueReset :
    let q : Recorded := { dir := .write, addr := 0x10#18, value := 7 }
    (let s : State :=
       { bypass with
         pins := { bypass.pins with resetTaken := true, resetN := false }
         portA := { PortRec.idle with recorded := some q }, portB := { PortRec.idle with recorded := some q } }
     s.pins.powered = true ∧ s.pins.resetTaken = true ∧ s.portA.recorded = some q ∧ s.portB.recorded = some q)
      ∧ (let s : State := { active with pins := { active.pins with resetN := false, resetLowPeriods := 160 } }
         s.pins.powered = true ∧ s.pins.resetTaken = false ∧ s.pins.refclk = true ∧ 160 ≤ s.pins.resetLowPeriods) := by
  decide

/-- With no recorded access, and with one of port B. -/
theorem witness_ReleaseLeavesEveryBlockAtItsResetValue :
    let s : State := { bypass with pins := { bypass.pins with resetTaken := true, resetN := false } }
    let q : Recorded := { dir := .write, addr := 0x10#18, value := 7 }
    (s.pins.powered = true ∧ s.pins.resetTaken = true ∧ s.portA.recorded = none ∧ s.portB.recorded = none)
      ∧ (({ s with portB := { PortRec.idle with recorded := some q } } : State).port .b).recorded = some q := by
  decide

theorem witness_LossOfSupplyKeepsMemoryAlone :
    active.pins.powered = true ∧ ∀ n, Instr.commitStart = .resetNFalling n → n < 160 :=
  ⟨by decide, fun n h => by cases h⟩

end Sys2Proof.Tests
end

section
/-! Host accesses that are answered at their arrival, and the writes of a commit: the refused writes (O21), the owner's header
read (O29), the commit's three steps (O41). -/

namespace Sys2Proof.Machine

/-! ## The classes of an access (R168, Table 10-2) -/

theorem inStatusBlock_iff (a : Addr) : inStatusBlock a = true ↔ 0x3F710 ≤ a.toNat ∧ a.toNat < 0x3F720 := by
  simp [inStatusBlock]

theorem inControlArea_iff (a : Addr) : inControlArea a = true ↔ 0x3F000 ≤ a.toNat := by simp [inControlArea]

/-- Outside PFAIL an access to a word of the Status Block is a Status Block access. -/
theorem State.dispatch_of_status {s : State} {p : Port} {a : Access} (hp : s.part ≠ .pfail)
    (h : 0x3F710 ≤ a.addr.toNat ∧ a.addr.toNat < 0x3F720) : s.dispatch p a = s.statusAccess p a := by
  simp [State.dispatch, hp, (inStatusBlock_iff _).2 h]

/-- Outside PFAIL an access to another word of the Control Area is a Control Area access. -/
theorem State.dispatch_of_control {s : State} {p : Port} {a : Access} (hp : s.part ≠ .pfail)
    (h : 0x3F000 ≤ a.addr.toNat) (hs : ¬ (0x3F710 ≤ a.addr.toNat ∧ a.addr.toNat < 0x3F720)) :
    s.dispatch p a = s.controlAccess p a := by
  rw [State.dispatch, if_neg hp, if_neg (mt (inStatusBlock_iff _).1 hs), if_pos ((inControlArea_iff _).2 h)]

/-- Outside PFAIL an access below the Control Area is plain memory's or a region's. -/
theorem State.dispatch_of_low {s : State} {p : Port} {a : Access} (hp : s.part ≠ .pfail)
    (h : a.addr.toNat < 0x3F000) : s.dispatch p a = s.lowAccess p a := by
  rw [State.dispatch, if_neg hp, if_neg (mt (inStatusBlock_iff _).1 (by omega)),
    if_neg (mt (inControlArea_iff _).1 (by omega))]

/-! ## Refused writes (R8, R136, R138) -/

/-- A write that is refused at its arrival. -/
theorem State.register_refuse (s : State) (p : Port) (a : Access) (addr : Addr) (v : Word) :
    ((s.strobe p).register p a).refuse p addr v = (s.answered p none).raise (.protect p addr v) := by
  rw [State.refuse, State.register_endAccess]

theorem statusAddr_toNat (w : Fin 16) : (statusAddr w).toNat = 0x3F710 + w.val := by
  simp only [statusAddr, BitVec.toNat_ofNat]; omega

theorem statusWord_statusAddr (w : Fin 16) : statusWord (statusAddr w) = w := by
  simp [statusWord, statusAddr_toNat]

/-- Port A may write four words of the Status Block, port B none (R136). -/
theorem statusWritable_eq_false {p : Port} {w : Fin 16} (h : p = .b ∨ w ∉ ([2, 3, 4, 6] : List (Fin 16))) :
    statusWritable p w = false := by
  cases p with
  | a => simpa [statusWritable, and_assoc] using h
  | b => rfl

/-- The Status Block refuses a write of a word that is not the port's to write (R136). -/
theorem State.statusWrite_of_unwritable {s : State} {p : Port} {w : Fin 16} (h : statusWritable p w = false) (v : Word) :
    s.statusWrite p (statusAddr w) v = s.refuse p (statusAddr w) v := by
  unfold State.statusWrite
  rw [statusWord_statusAddr]
  split
  case h_5 => rfl
  all_goals exact absurd h (by decide)

/-- The writes to the Control Area that Table 8-2 refuses in ACTIVE and DRAINING. -/
theorem protectedWrite_iff (p : Port) (d : Dir) (a : Addr) :
    protectedWrite p d a = true ↔
      d = .write ∧ (0x3F610 ≤ a.toNat ∧ a.toNat < 0x3F710 ∨ 0x3F000 ≤ a.toNat ∧ a.toNat < 0x3F610 ∧ p = .b) := by
  simp [protectedWrite, inFaultLog, inTableWords, and_assoc]

theorem State.controlAccess_of_protected {s : State} {p : Port} {a : Access} (hp : s.part = .active ∨ s.part = .draining)
    (h : protectedWrite p a.dir a.addr = true) : s.controlAccess p a = s.refuse p a.addr a.value := by
  rcases hp with hp | hp <;> simp [State.controlAccess, hp, h]

/-- In ACTIVE the reader's write to a region is refused, whatever the word (R8). -/
theorem State.regionAccess_of_readerWrite {s : State} {p : Port} {a : Access} {r : Fin 64} {x : Region}
    (hw : x.entry.writer ≠ p) (hd : a.dir = .write) : s.regionAccess p a r x = s.refuse p a.addr a.value := by
  simp [State.regionAccess, hw, hd]

/-- Settles O21: each of the three classes hands the write to `refuse`. -/
theorem refusedWritesOnlyRaiseProtect : Obligations.RefusedWritesOnlyRaiseProtect := by
  intro s p oe addr v hready
  refine ⟨fun w hl hp hw => ?_, fun hpart hprot => ?_, fun r x hacc hx => ?_⟩
  · have hsw := statusWritable_eq_false hw
    have hexec : exec (.statusBlockWriteRefused p w v) s = .next (s.offer p .write (statusAddr w) v) := by
      simp [exec, execStatusBlockWriteRefused, hsw]
    have haddr := statusAddr_toNat w
    rw [hexec, State.offer_of_ready hready, State.arrive, State.dispatch_of_status (by simpa using hp)
      (by rw [State.newAccess_addr]; omega), State.statusAccess]
    simp only [State.newAccess_dir, State.newAccess_addr, State.newAccess_value, State.register_part, State.strobe_part,
      if_neg hl, State.statusWrite_of_unwritable hsw, State.register_refuse]
    rfl
  · have hpf : s.part ≠ .pfail := by rcases hpart with h | h <;> simp [h]
    have hpw : protectedWrite p .write addr = true := (protectedWrite_iff ..).2 ⟨rfl, hprot⟩
    rw [exec_accessArrival_of_ready hready (by simp),
      State.dispatch_of_control (by simpa using hpf) (by rw [State.newAccess_addr]; omega)
        (by rw [State.newAccess_addr]; omega),
      State.controlAccess_of_protected (by simpa using hpart) hpw, State.register_refuse]
    rfl
  · have hne : x.entry.writer ≠ p := hx ▸ Port.other_ne p
    rw [exec_accessArrival_of_ready hready (by simp), State.dispatch_of_accessesRegion hacc,
      State.regionAccess_of_readerWrite hne rfl, State.register_refuse]
    rfl

/-! ## The owner's header read (R13) -/

/-- The fields of a header read value lie where Table 8-9 has them. -/
theorem readHeader_fields (gen : BitVec 10) (h : HeaderState) (stale : Bool) (result : HeaderResult) (staged : Bool) :
    let w := readHeader gen h stale result staged
    w.extractLsb' 6 10 = gen ∧ w.extractLsb' 4 2 = h.code ∧ w.getLsbD 3 = stale ∧ w.extractLsb' 1 2 = result.code
      ∧ w.getLsbD 0 = staged := by
  unfold readHeader
  refine ⟨?_, ?_, ?_, ?_, ?_⟩
  · rw [BitVec.extractLsb'_append_eq_of_le (by decide), BitVec.extractLsb'_append_eq_of_le (by decide),
      BitVec.extractLsb'_append_eq_of_le (by decide)]
    exact BitVec.extractLsb'_append_eq_left
  · rw [BitVec.extractLsb'_append_eq_of_le (by decide), BitVec.extractLsb'_append_eq_of_le (by decide),
      BitVec.extractLsb'_append_eq_of_le (by decide)]
    exact BitVec.extractLsb'_append_eq_right
  · rw [BitVec.getLsbD_append, if_neg (by decide), BitVec.getLsbD_append, if_neg (by decide), BitVec.getLsbD_append,
      if_pos (by decide)]
    simp
  · rw [BitVec.extractLsb'_append_eq_of_le (by decide)]
    exact BitVec.extractLsb'_append_eq_right
  · rw [BitVec.getLsbD_append, if_pos (by decide)]
    simp

/-- A header read value with another result than BROKEN is not FFFFH, the value a read is ended with (R15). -/
theorem readHeader_ne_ended (gen : BitVec 10) (h : HeaderState) (stale : Bool) {result : HeaderResult} (staged : Bool)
    (hr : result ≠ .broken) : readHeader gen h stale result staged ≠ 0xFFFF#16 := by
  intro hw
  obtain ⟨-, -, -, hfield, -⟩ := readHeader_fields gen h stale result staged
  have hq : result.code = (0xFFFF#16).extractLsb' 1 2 := by rw [← hw, hfield]
  cases result
  case broken => exact hr rfl
  all_goals exact absurd hq (by decide)

/-- The owner's header read is a read of offset 0 by the writer's port (Table 1-4). -/
theorem State.regionAccess_of_ownerHeader {s : State} {p : Port} {a : Access} {r : Fin 64} {x : Region}
    (hw : x.entry.writer = p) (hd : a.dir = .read) (ho : x.entry.offset a.addr = 0) :
    s.regionAccess p a r x = s.ownerHeaderRead p r := by
  simp [State.regionAccess, hw, hd, ho]

/-- An owner's header read of a region at its arrival. -/
theorem State.register_ownerHeaderRead {s : State} {r : Fin 64} {x : Region} (h : s.region? r = some x) (p : Port)
    (a : Access) :
    ((s.strobe p).register p a).ownerHeaderRead p r =
      s.answered p (some (x.readValue .owner (s.fillingLink r).isSome)) := by
  have hl : ((s.strobe p).register p a).live = s.live := by simp
  have hs : ((s.strobe p).register p a).fillingLink r = s.fillingLink r := State.slotIn_of_slots (by simp) _ _
  simp only [State.ownerHeaderRead, State.region?_of_live hl, h, hs, State.register_endAccess]

/-- Settles O29: the value is `readHeader` of the region's record, and its fields stand where Table 8-9 has them. -/
theorem ownerHeaderReadIsComposed : Obligations.OwnerHeaderReadIsComposed := by
  intro s p addr v r x hacc hw haddr
  obtain ⟨hready, _, _, _, hx⟩ := id hacc
  obtain ⟨hgen, hstate, hstale, hresult, hstaged⟩ :=
    readHeader_fields x.gen x.header x.stale .owner (s.fillingLink r).isSome
  refine ⟨x.readValue .owner (s.fillingLink r).isSome, ?_, hgen, ?_, hstale, hresult, hstaged,
    readHeader_ne_ended _ _ _ _ (by decide)⟩
  · rw [exec_accessArrival_of_ready hready rfl, State.dispatch_of_accessesRegion hacc,
      State.regionAccess_of_ownerHeader hw rfl (by rw [State.newAccess_addr, Entry.offset]; omega),
      State.register_ownerHeaderRead hx]
  · exact hstate.trans (by cases x.header <;> rfl)

/-! ## The commit's writes (R76) -/

/-- The completion of a write of the commit that is not the CLOSING one: the write is stored and the record moves on. -/
theorem exec_completion_of_commitWrite {s : State} {c : CommitRec} {cy : Cycle} (hr : s.running = true)
    (hd : s.pins.pfailDue = false) (hcy : s.cycle = some cy) (hq : cy.req = .commit) (hw : cy.dir = .write)
    (hc : s.commit = some c) (h : c.atClosing = false) :
    exec .memoryCycleCompletion s = .next
      { s with mem := memWrite s.mem cy.addr cy.data, cycle := none, commit := some (s.commitAdvance c) } := by
  rw [exec_memoryCycleCompletion_of_cycle hr hd hcy]
  simp only [State.completeCycle, hq, State.commitWriteDone, hc, h, State.memCarried_of_write hcy hw]
  rfl

theorem State.commitAdvance_of_opening {s : State} {c : CommitRec} (h : c.step = .opening) :
    s.commitAdvance c = { c with step := if c.next.isSome then .body else .closing } := by
  cases hn : c.next <;> simp [State.commitAdvance, h, hn]

theorem State.commitAdvance_of_last {s : State} {c : CommitRec} {off : Nat} (h : c.step = .body) (hn : c.next = some off)
    (ho : nextOffset s.slots[c.slot].words off = none) :
    s.commitAdvance c = { c with step := .closing, next := none } := by
  simp only [State.commitAdvance, h, hn, ho]

theorem State.commitAdvance_of_more {s : State} {c : CommitRec} {off off' : Nat} (h : c.step = .body)
    (hn : c.next = some off) (ho : nextOffset s.slots[c.slot].words off = some off') :
    s.commitAdvance c = { c with next := some off' } := by
  simp only [State.commitAdvance, h, hn, ho]

/-- No offset follows one that every offset of the slot is at or below. -/
theorem nextOffset_eq_none {ws : List (Nat × Word)} {off : Nat} (h : ∀ o ∈ ws.map Prod.fst, o ≤ off) :
    nextOffset ws off = none := by
  have hnone : ws.find? (fun cell => decide (off < cell.1)) = none :=
    List.find?_eq_none.2 fun cell hcell => by
      simpa using h cell.1 (List.mem_map_of_mem hcell)
  rw [nextOffset, hnone, Option.map_none]

/-- Of rising offsets the one that follows is the lowest above. -/
theorem nextOffset_eq_some {ws : List (Nat × Word)} {off o : Nat} (hrise : cellsRising ws = true)
    (ho : o ∈ ws.map Prod.fst) (hlt : off < o) :
    ∃ o', nextOffset ws off = some o' ∧ off < o' ∧ o' ≤ o ∧ o' ∈ ws.map Prod.fst := by
  rw [cellsRising_iff] at hrise
  induction ws with
  | nil => simp at ho
  | cons cell rest ih =>
    obtain ⟨hfirst, hrest⟩ := List.pairwise_cons.1 hrise
    by_cases h : off < cell.1
    · refine ⟨cell.1, by simp [nextOffset, h], h, ?_, by simp⟩
      rcases List.mem_cons.1 ho with rfl | ho
      · exact le_rfl
      · obtain ⟨d, hd, rfl⟩ := List.mem_map.1 ho
        exact (hfirst d hd).le
    · have ho' : o ∈ rest.map Prod.fst := by
        rcases List.mem_cons.1 ho with rfl | ho
        · exact absurd hlt h
        · exact ho
      obtain ⟨o', hn, hgt, hle, hmem⟩ := ih hrest ho'
      exact ⟨o', by simpa [nextOffset, h] using hn, hgt, hle, List.mem_cons_of_mem _ hmem⟩

/-- Settles O41: the request is `commitWrite` of the record, and a completion that is not the last is `commitAdvance`. -/
theorem commitWritesInThreeSteps : Obligations.CommitWritesInThreeSteps := by
  intro s c hc
  refine ⟨fun hs => ?_, fun off w hs hn hw => ?_, fun hs => ?_, fun cy hr hd hcy hq hdir => ⟨fun hs => ?_, ?_⟩⟩
  · simp [State.commitRequest, hc, State.commitWrite, hs, storedHeader, HeaderState.code]
  · have hw' : cellsGet s.slots[c.slot.val].words off = some w := hw
    simp [State.commitRequest, hc, State.commitWrite, hs, hn, hw', offsetAddr]
  · simp [State.commitRequest, hc, State.commitWrite, hs, storedHeader, HeaderState.code]
  · rw [exec_completion_of_commitWrite hr hd hcy hq hdir hc (by simp [CommitRec.atClosing, hs]),
      State.commitAdvance_of_opening hs]
  · intro off hs hn hrise
    refine ⟨s.commitAdvance c, ?_, fun hlast => ?_, fun o ho hlt => ?_⟩
    · exact exec_completion_of_commitWrite hr hd hcy hq hdir hc (by simp [CommitRec.atClosing, hs, hn])
    · exact State.commitAdvance_of_last hs hn (nextOffset_eq_none hlast)
    · obtain ⟨o', hnext, hgt, hle, hmem⟩ := nextOffset_eq_some hrise ho hlt
      exact ⟨o', State.commitAdvance_of_more hs hn hnext, hgt, hle, hmem⟩

end Sys2Proof.Machine
end

section
/-! Accesses that wait out a load: what has them wait, and how they are taken afresh (O16). -/

namespace Sys2Proof.Machine

/-! ## Waits with cause LOAD (R9) -/

/-- In LOADING every access but a Status Block read waits. -/
theorem State.dispatch_of_loading {s : State} {p : Port} {a : Access} (hp : s.part = .loading)
    (h : a.dir = .write ∨ ¬ (0x3F710 ≤ a.addr.toNat ∧ a.addr.toNat < 0x3F720)) :
    s.dispatch p a = s.waitForState p := by
  have hpf : s.part ≠ .pfail := by simp [hp]
  by_cases hs : 0x3F710 ≤ a.addr.toNat ∧ a.addr.toNat < 0x3F720
  · have hw : a.dir = .write := h.resolve_right (not_not_intro hs)
    simp [State.dispatch_of_status hpf hs, State.statusAccess, hw, hp]
  · by_cases hc : 0x3F000 ≤ a.addr.toNat
    · simp [State.dispatch_of_control hpf hc hs, State.controlAccess, hp]
    · simp [State.dispatch_of_low hpf (not_le.1 hc), State.lowAccess, hp]

/-- In DRAINING an access to a live region's word waits. -/
theorem State.dispatch_of_drainingRegion {s : State} {p : Port} {a : Access} (hp : s.part = .draining)
    (ha : a.addr.toNat < 0x3F000) (hr : (s.regionAt a.addr).isSome = true) : s.dispatch p a = s.waitForState p := by
  rw [State.dispatch_of_low (by simp [hp]) ha]
  simp [State.lowAccess, hp, hr]

/-! ## No operation but a wait for the part state has an access wait with cause LOAD -/

/-- The access at `q` waits with cause LOAD after the operation only if it did before. -/
def State.NoNewLoadWait (s t : State) (q : Port) : Prop := t.waitsOnLoad q = true → s.waitsOnLoad q = true

theorem State.NoNewLoadWait.trans {s t u : State} {q : Port} (h : s.NoNewLoadWait t q) (h' : t.NoNewLoadWait u q) :
    s.NoNewLoadWait u q := fun hu => h (h' hu)

/-- Only the access in flight decides whether a port waits. -/
theorem State.noNewLoadWait_of_access {s t : State} {q : Port} (h : (t.port q).access = (s.port q).access) :
    s.NoNewLoadWait t q := by
  unfold State.NoNewLoadWait State.waitsOnLoad
  rw [h]; exact id

theorem State.noNewLoadWait_of_ports {s t : State} (ha : t.portA = s.portA) (hb : t.portB = s.portB) (q : Port) :
    s.NoNewLoadWait t q :=
  State.noNewLoadWait_of_access (by cases q <;> simp only [State.port, ha, hb])

theorem State.setPort_noNewLoadWait {s : State} {p q : Port} {r : PortRec}
    (h : p = q → r.access.any (fun a => a.phase == .held .load) = true → s.waitsOnLoad q = true) :
    s.NoNewLoadWait (s.setPort p r) q := by
  unfold State.NoNewLoadWait
  by_cases hpq : p = q
  · intro hw
    rw [State.waitsOnLoad, State.port_setPort, if_pos hpq] at hw
    exact h hpq hw
  · rw [State.waitsOnLoad, State.port_setPort, if_neg hpq]
    exact id

theorem State.endAccess_noNewLoadWait (s : State) (p : Port) (d : Option Word) (q : Port) :
    s.NoNewLoadWait (s.endAccess p d) q :=
  State.setPort_noNewLoadWait fun _ h => by simp at h

/-- An access that is held with another cause than LOAD does not wait on LOAD. -/
theorem State.hold_noNewLoadWait (s : State) (p : Port) {c : WaitCause} (hc : c ≠ .load) (k : AccessClass) (q : Port) :
    s.NoNewLoadWait (s.hold p c k) q :=
  State.setPort_noNewLoadWait fun _ h => by
    cases ha : (s.port p).access <;> simp [ha, hc] at h

/-- The access at one port waits without the other's. -/
theorem State.hold_noNewLoadWait_other (s : State) (p : Port) (c : WaitCause) (k : AccessClass) :
    s.NoNewLoadWait (s.hold p c k) p.other :=
  State.setPort_noNewLoadWait fun h => absurd h.symm (Port.other_ne p)

theorem State.raise_noNewLoadWait (s : State) (d : FaultDetail) (q : Port) : s.NoNewLoadWait (s.raise d) q := by
  obtain ⟨l, a, h⟩ := s.raise_only d
  exact State.noNewLoadWait_of_ports (by rw [h]) (by rw [h]) q

theorem State.refuse_noNewLoadWait (s : State) (p : Port) (a : Addr) (v : Word) (q : Port) :
    s.NoNewLoadWait (s.refuse p a v) q :=
  (s.endAccess_noNewLoadWait p none q).trans (State.raise_noNewLoadWait _ _ q)

/-! ### The Status Block -/

theorem State.statusRead_noNewLoadWait (s : State) (p : Port) (w : Fin 16) (q : Port) :
    s.NoNewLoadWait (s.statusRead p w) q := by
  unfold State.statusRead
  refine State.NoNewLoadWait.trans ?_ (State.endAccess_noNewLoadWait _ p _ q)
  split
  · exact State.setPort_noNewLoadWait fun hpq h => by rwa [← hpq]
  · exact id

theorem State.statusWrite_noNewLoadWait (s : State) (p : Port) (a : Addr) (v : Word) (q : Port) :
    s.NoNewLoadWait (s.statusWrite p a v) q := by
  have answered : ∀ t : State, t.portA = s.portA → t.portB = s.portB → s.NoNewLoadWait (t.endAccess .a none) q :=
    fun t ha hb => (State.noNewLoadWait_of_ports ha hb q).trans (t.endAccess_noNewLoadWait .a none q)
  unfold State.statusWrite
  split
  · exact answered _ rfl rfl
  · exact answered _ rfl rfl
  · unfold State.writeHoldoff
    split
    · exact answered _ rfl rfl
    · exact s.refuse_noNewLoadWait _ _ _ q
  · unfold State.writeConsumer
    split
    · exact answered _ rfl rfl
    · exact s.refuse_noNewLoadWait _ _ _ q
  · exact s.refuse_noNewLoadWait _ _ _ q

/-! ### The owner's accesses -/

/-- A waiting write waits with cause SLOT or COMMIT (R23). -/
theorem State.stageCause_ne_load (s : State) (r : Fin 64) (k : StageAsk) : s.stageCause r k ≠ .load := by
  unfold State.stageCause
  split
  · split <;> decide
  · decide

theorem State.waitForSlot_noNewLoadWait (s : State) (p : Port) (r : Fin 64) (k : StageAsk) (v : Word) (q : Port) :
    s.NoNewLoadWait (s.waitForSlot p r k v) q :=
  State.NoNewLoadWait.trans (State.noNewLoadWait_of_ports rfl rfl q)
    (State.hold_noNewLoadWait _ p (s.stageCause_ne_load r k) .ownerWrite q)

theorem State.sealAs_noNewLoadWait (s : State) (k : Fin 12) (r : Fin 64) (ws : List (Nat × Word)) (q : Port) :
    s.NoNewLoadWait (s.sealAs k r ws) q := by
  obtain ⟨x, c, l, h⟩ := s.sealAs_only k r ws
  exact State.noNewLoadWait_of_ports (by rw [h]) (by rw [h]) q

theorem State.serveEntry_noNewLoadWait (s : State) (e : WaitEntry) (q : Port) :
    s.NoNewLoadWait (s.serveEntry e) q := by
  unfold State.serveEntry
  split
  · rename_i k _ _
    obtain ⟨x, c, l, h⟩ := State.giveSlot_only { s with waiting := s.waiting.filter fun w => w.port != e.port } k
      e.region e.ask e.value
    refine State.NoNewLoadWait.trans ?_ (State.endAccess_noNewLoadWait _ e.port none q)
    exact State.noNewLoadWait_of_ports (by rw [h]) (by rw [h]) q
  · exact s.hold_noNewLoadWait e.port (s.stageCause_ne_load _ _) .ownerWrite q

theorem serveList_noNewLoadWait (es : List WaitEntry) (s : State) (q : Port) :
    s.NoNewLoadWait (serveList es s) q := by
  induction es generalizing s with
  | nil => exact id
  | cons e rest ih => exact (s.serveEntry_noNewLoadWait e q).trans (ih (s.serveEntry e))

theorem State.ownerSeal_noNewLoadWait (s : State) (p : Port) (r : Fin 64) (q : Port) :
    s.NoNewLoadWait (s.ownerSeal p r) q := by
  unfold State.ownerSeal
  split
  · exact (s.sealAs_noNewLoadWait _ _ _ q).trans (State.endAccess_noNewLoadWait _ p none q)
  · refine State.NoNewLoadWait.trans ?_ (serveList_noNewLoadWait _ _ q)
    exact State.NoNewLoadWait.trans (State.noNewLoadWait_of_ports rfl rfl q) (State.endAccess_noNewLoadWait _ p none q)
  · exact s.endAccess_noNewLoadWait p none q
  · split
    · exact (s.sealAs_noNewLoadWait _ _ _ q).trans (State.endAccess_noNewLoadWait _ p none q)
    · exact s.waitForSlot_noNewLoadWait _ _ _ _ q

theorem State.ownerBodyWrite_noNewLoadWait (s : State) (p : Port) (r : Fin 64) (off : Nat) (v : Word) (q : Port) :
    s.NoNewLoadWait (s.ownerBodyWrite p r off v) q := by
  have given : ∀ t : State, t.portA = s.portA → t.portB = s.portB → s.NoNewLoadWait (t.endAccess p none) q :=
    fun t ha hb => (State.noNewLoadWait_of_ports ha hb q).trans (t.endAccess_noNewLoadWait p none q)
  unfold State.ownerBodyWrite
  split
  · exact given _ rfl rfl
  · split
    · exact s.waitForSlot_noNewLoadWait _ _ _ _ q
    · split
      · exact given _ rfl rfl
      · exact s.waitForSlot_noNewLoadWait _ _ _ _ q

theorem State.ownerHeaderRead_noNewLoadWait (s : State) (p : Port) (r : Fin 64) (q : Port) :
    s.NoNewLoadWait (s.ownerHeaderRead p r) q := by
  unfold State.ownerHeaderRead
  split
  · exact s.endAccess_noNewLoadWait _ _ q
  · exact id

theorem State.ownerBodyRead_noNewLoadWait (s : State) (p : Port) (r : Fin 64) (off : Nat) (q : Port) :
    s.NoNewLoadWait (s.ownerBodyRead p r off) q := by
  unfold State.ownerBodyRead
  split
  · exact s.endAccess_noNewLoadWait _ _ q
  · exact s.hold_noNewLoadWait _ (by decide) _ q

/-! ### The reader's accesses -/

theorem State.takeReaderHeader_noNewLoadWait (s : State) (p : Port) (r : Fin 64) (q : Port) :
    s.NoNewLoadWait (s.takeReaderHeader p r) q := by
  unfold State.takeReaderHeader
  split
  · split
    · refine State.NoNewLoadWait.trans ?_ (State.endAccess_noNewLoadWait _ p _ q)
      obtain ⟨l, a, b, h⟩ := s.closeSession_only p r
      exact State.noNewLoadWait_of_ports (by rw [h]) (by rw [h]) q
    · refine State.NoNewLoadWait.trans ?_ (State.endAccess_noNewLoadWait _ p _ q)
      obtain ⟨l, a, b, h⟩ := s.evict_only p
      obtain ⟨l', a', b', h'⟩ := (s.evict p).openSession_only p r
      exact State.noNewLoadWait_of_ports (by rw [h', h]) (by rw [h', h]) q
  · exact id

theorem State.readerHeaderRead_noNewLoadWait (s : State) (p : Port) (r : Fin 64) (q : Port) :
    s.NoNewLoadWait (s.readerHeaderRead p r) q := by
  unfold State.readerHeaderRead
  split
  · exact s.hold_noNewLoadWait _ (by decide) _ q
  · exact s.takeReaderHeader_noNewLoadWait p r q

theorem State.readerBodyRead_noNewLoadWait (s : State) (p : Port) (r : Fin 64) (q : Port) :
    s.NoNewLoadWait (s.readerBodyRead p r) q :=
  s.hold_noNewLoadWait p (by split <;> decide) _ q

/-! ### The classifier -/

theorem State.regionAccess_noNewLoadWait (s : State) (p : Port) (a : Access) (r : Fin 64) (x : Region) (q : Port) :
    s.NoNewLoadWait (s.regionAccess p a r x) q := by
  unfold State.regionAccess
  simp only
  split
  · split
    · split
      · exact s.ownerSeal_noNewLoadWait p r q
      · exact s.ownerBodyWrite_noNewLoadWait _ _ _ _ q
    · split
      · exact s.ownerHeaderRead_noNewLoadWait p r q
      · exact s.ownerBodyRead_noNewLoadWait _ _ _ q
  · split
    · exact s.refuse_noNewLoadWait _ _ _ q
    · split
      · exact s.readerHeaderRead_noNewLoadWait p r q
      · exact s.readerBodyRead_noNewLoadWait p r q

theorem State.endInPfail_noNewLoadWait (s : State) (p : Port) (a : Access) (q : Port) :
    s.NoNewLoadWait (s.endInPfail p a) q := by
  unfold State.endInPfail
  simp only
  split
  · exact (s.endAccess_noNewLoadWait p _ q).trans (State.raise_noNewLoadWait _ _ q)
  · exact s.endAccess_noNewLoadWait p _ q

theorem State.statusAccess_noNewLoadWait (s : State) (p : Port) (a : Access) :
    s.NoNewLoadWait (s.statusAccess p a) p.other := by
  unfold State.statusAccess
  split
  · exact s.statusRead_noNewLoadWait _ _ _
  · split
    · exact s.hold_noNewLoadWait_other _ _ _
    · exact s.statusWrite_noNewLoadWait _ _ _ _

theorem State.controlAccess_noNewLoadWait (s : State) (p : Port) (a : Access) :
    s.NoNewLoadWait (s.controlAccess p a) p.other := by
  have guarded : s.NoNewLoadWait
      (if protectedWrite p a.dir a.addr then s.refuse p a.addr a.value else s.passToMemory p) p.other := by
    split
    · exact s.refuse_noNewLoadWait _ _ _ _
    · exact s.hold_noNewLoadWait_other _ _ _
  unfold State.controlAccess
  cases s.part with
  | active | draining => exact guarded
  | loading | bypass | pfail => exact s.hold_noNewLoadWait_other _ _ _

theorem State.lowAccess_noNewLoadWait (s : State) (p : Port) (a : Access) :
    s.NoNewLoadWait (s.lowAccess p a) p.other := by
  unfold State.lowAccess
  cases s.part with
  | loading | bypass | pfail => exact s.hold_noNewLoadWait_other _ _ _
  | draining => dsimp only; split <;> exact s.hold_noNewLoadWait_other _ _ _
  | active =>
    dsimp only
    split
    · split
      · exact s.regionAccess_noNewLoadWait _ _ _ _ _
      · exact s.hold_noNewLoadWait_other _ _ _
    · exact s.hold_noNewLoadWait_other _ _ _

/-- The access of one port, when it is taken, leaves the other port without a wait for a load that it had not. -/
theorem State.dispatch_noNewLoadWait (s : State) (p : Port) (a : Access) :
    s.NoNewLoadWait (s.dispatch p a) p.other := by
  unfold State.dispatch
  split
  · exact s.endInPfail_noNewLoadWait _ _ _
  · split
    · exact s.statusAccess_noNewLoadWait p a
    · split
      · exact s.controlAccess_noNewLoadWait p a
      · exact s.lowAccess_noNewLoadWait p a

/-! ## Taking afresh (R154) -/

/-- An access that waits with cause LOAD is classed again, as the access it is. -/
theorem State.takeAfresh_of_waiting {s : State} {p : Port} {a : Access} (ha : (s.port p).access = some a)
    (hw : a.phase = .held .load) : s.takeAfresh p = s.dispatch p a := by
  simp [State.takeAfresh, ha, hw]

theorem State.takeAfresh_of_not_waiting {s : State} {p : Port} (h : s.waitsOnLoad p = false) : s.takeAfresh p = s := by
  unfold State.takeAfresh
  cases ha : (s.port p).access with
  | none => rfl
  | some a =>
    have : a.phase ≠ .held .load := by simpa [State.waitsOnLoad, ha] using h
    simp [this]

theorem State.waitsOnLoad_of_waiting {s : State} {p : Port} {a : Access} (ha : (s.port p).access = some a)
    (hw : a.phase = .held .load) : s.waitsOnLoad p = true := by
  simp [State.waitsOnLoad, ha, hw]

/-- Unless both ports wait, the wait's end takes port A's access and then port B's. -/
theorem State.releaseLoad_of_one {s : State} (h : s.waitsOnLoad .a = false ∨ s.waitsOnLoad .b = false) :
    s.releaseLoad = (s.takeAfresh .a).takeAfresh .b := by
  unfold State.releaseLoad
  rw [if_neg (by rcases h with h | h <;> simp [h])]

/-- An access that waits alone is taken, and the other port is left without a wait to end. -/
theorem State.releaseLoad_of_alone {s : State} {p : Port} {a : Access} (ha : (s.port p).access = some a)
    (hw : a.phase = .held .load) (ho : s.waitsOnLoad p.other = false) : s.releaseLoad = s.dispatch p a := by
  have hafter : (s.dispatch p a).waitsOnLoad p.other = false :=
    Bool.eq_false_iff.2 fun h => by simp [s.dispatch_noNewLoadWait p a h] at ho
  cases p with
  | a =>
    rw [State.releaseLoad_of_one (.inr ho), State.takeAfresh_of_waiting ha hw]
    exact State.takeAfresh_of_not_waiting hafter
  | b =>
    rw [State.releaseLoad_of_one (.inl ho), State.takeAfresh_of_not_waiting (p := .a) ho]
    exact State.takeAfresh_of_waiting ha hw

/-- Settles O16: by the class of the access, and by which ports wait. -/
theorem accessesWaitOutALoadAndAreTakenAfresh : Obligations.AccessesWaitOutALoadAndAreTakenAfresh := by
  refine ⟨fun s p oe we addr v hready hstrobe hwait => ?_, fun s => ⟨fun ha hb => ?_, fun p a ha hw ho => ?_,
    fun a b ha hwa hb hwb => ?_⟩⟩
  · rw [exec_accessArrival_of_ready hready hstrobe, ← State.register_hold]
    congr 1
    rcases hwait with ⟨hp, h⟩ | ⟨hp, haddr, hr⟩
    · exact State.dispatch_of_loading (by simpa using hp) (h.imp (fun hwe => by simp [hwe, dirOf]) id)
    · have hl : ((s.strobe p).register p (s.newAccess (dirOf we) addr v)).live = s.live := by simp
      exact State.dispatch_of_drainingRegion (by simpa using hp) haddr
        (by rwa [State.newAccess_addr, State.regionAt_of_live hl])
  · rw [State.releaseLoad_of_one (.inl ha), State.takeAfresh_of_not_waiting ha, State.takeAfresh_of_not_waiting hb]
  · exact State.releaseLoad_of_alone ha hw ho
  · intro t
    have hboth : (s.waitsOnLoad .a && s.waitsOnLoad .b) = true := by
      rw [State.waitsOnLoad_of_waiting (p := .a) ha hwa, State.waitsOnLoad_of_waiting (p := .b) hb hwb]; rfl
    have hta : t.takeAfresh .a = t.dispatch .a a := State.takeAfresh_of_waiting ha hwa
    have htb : t.takeAfresh .b = t.dispatch .b b := State.takeAfresh_of_waiting hb hwb
    rw [State.releaseLoad, if_pos hboth, ← hta, ← htb]
    dsimp only
    split
    · exact .inl rfl
    · exact .inr rfl

end Sys2Proof.Machine
end

section
/-! The Table Loader's accesses: the shadow reads and the torn scan (O54), and the swap that puts a table in force (O55). -/

namespace Sys2Proof.Machine

/-! ## What the words of a table declare (Tables 8-7 and 8-8) -/

/-- An address of two words: bits 15 to 0 in the one, bits 17 and 16 in the other. -/
theorem splitAddr_eq (low high : Word) :
    high.extractLsb' 0 2 ++ low = BitVec.ofNat 18 (low.toNat + 65536 * high.toNat) := by
  apply BitVec.eq_of_toNat_eq
  have hlow := low.isLt
  rw [BitVec.toNat_append, ← Nat.shiftLeft_add_eq_or_of_lt hlow, Nat.shiftLeft_eq]
  simp only [BitVec.extractLsb'_toNat, BitVec.toNat_ofNat, Nat.shiftRight_zero]
  omega

theorem entryBase_eq (ws : List Word) (i : Fin 64) :
    entryBase ws i = BitVec.ofNat 18 ((entryWord ws i 1).toNat + 65536 * (entryWord ws i 2).toNat) :=
  splitAddr_eq _ _

theorem lowByte_toNat (w : Word) : (w.extractLsb' 0 8).toNat = w.toNat % 256 := by
  simp [BitVec.extractLsb'_toNat]

theorem highByte_toNat (w : Word) : (w.extractLsb' 8 8).toNat = w.toNat / 256 := by
  have := w.isLt
  rw [BitVec.extractLsb'_toNat, Nat.shiftRight_eq_div_pow]
  omega

/-- A writer code that names no port reads as port A (log 20). -/
theorem entryWriter_getD (ws : List Word) (i : Fin 64) :
    (entryWriter ws i).getD .a = if (entryWord ws i 0).extractLsb' 1 2 = 0b10#2 then .b else .a := by
  unfold entryWriter
  dsimp only
  split
  · rename_i h; rw [h]; rfl
  · split <;> rfl

theorem parseEntry_eq (ws : List Word) (i : Fin 64) :
    parseEntry ws i =
      { writer := if (entryWord ws i 0).extractLsb' 1 2 = 0b10#2 then .b else .a
        learn := (entryWord ws i 0).getLsbD 3
        base := BitVec.ofNat 18 ((entryWord ws i 1).toNat + 65536 * (entryWord ws i 2).toNat)
        len := (entryWord ws i 3).toNat
        hold := (entryWord ws i 4).toNat % 256
        period := (entryWord ws i 5).toNat
        condFirst := (entryWord ws i 6).toNat / 256
        condCount := (entryWord ws i 6).toNat % 256
        tag := entryWord ws i 7 } := by
  rw [parseEntry, entryWriter_getD, entryBase_eq, lowByte_toNat, lowByte_toNat, highByte_toNat]
  rfl

theorem parseCondition_eq (ws : List Word) (c : Nat) :
    parseCondition ws c =
      { addr := BitVec.ofNat 18 ((condWord ws c 0).toNat + 65536 * (condWord ws c 1).toNat)
        sense := if (condWord ws c 1).getLsbD 15 then .differ else .equal
        mask := condWord ws c 2
        expected := condWord ws c 3 } := by
  rw [parseCondition, splitAddr_eq]

/-! ## The check word (R146) -/

/-- A fold over the first `n` words, as a fold over their places: a place past the list's end counts as 0. -/
theorem foldl_xor_take (ws : List Word) (n : Nat) (init : Word) :
    (ws.take n).foldl (· ^^^ ·) init = (List.range n).foldl (fun acc j => acc ^^^ ws.getD j 0#16) init := by
  induction n generalizing ws init with
  | zero => simp
  | succ n ih =>
    rw [List.range_succ_eq_map, List.foldl_cons, List.foldl_map]
    cases ws with
    | nil => simp
    | cons w rest => simpa using ih rest (init ^^^ w)

/-- The places of the words that the check is formed over, in a table of six words and `n` more. -/
theorem checkedPlaces_eq (n : Nat) :
    ((List.range (6 + n)).filter fun j => j != 1 && j != 5) = [0, 2, 3, 4] ++ (List.range n).map (6 + ·) := by
  rw [List.range_add, List.filter_append, show (List.range 6).filter (fun j => j != 1 && j != 5) = [0, 2, 3, 4] by decide]
  congr 1
  refine List.filter_eq_self.2 fun j hj => ?_
  obtain ⟨k, -, rfl⟩ := List.mem_map.1 hj
  simp only [bne_iff_ne, Bool.and_eq_true]
  omega

/-- The words from the sixth on, up to `n` of them, as a fold over their places. -/
theorem foldl_xor_take_drop (ws : List Word) (n : Nat) :
    ((ws.take (6 + n)).drop 6).foldl (· ^^^ ·) 0#16 =
      (List.range n).foldl (fun acc j => acc ^^^ ws.getD (6 + j) 0#16) 0#16 := by
  rw [List.drop_take, Nat.add_sub_cancel_left, foldl_xor_take]
  simp [List.getD_eq_getElem?_getD]

/-- The value a fold starts with is one more summand. -/
theorem foldl_xor_init {α : Type} (l : List α) (f : α → Word) (init : Word) :
    l.foldl (fun acc j => acc ^^^ f j) init = init ^^^ l.foldl (fun acc j => acc ^^^ f j) 0#16 := by
  induction l generalizing init with
  | nil => simp
  | cons x rest ih => rw [List.foldl_cons, List.foldl_cons, ih, ih (0#16 ^^^ f x), BitVec.zero_xor, BitVec.xor_assoc]

/-- The check is the XOR of the 1552 words but words 1 and 5. -/
theorem formCheck_eq (ws : List Word) :
    formCheck ws =
      ((List.range 1552).filter fun j => j != 1 && j != 5).foldl (fun acc j => acc ^^^ ws.getD j 0#16) 0#16 := by
  calc formCheck ws
      = (headerWord ws 0 ^^^ headerWord ws 2 ^^^ headerWord ws 3 ^^^ headerWord ws 4) ^^^
          (List.range 1546).foldl (fun acc j => acc ^^^ ws.getD (6 + j) 0#16) 0#16 := by
        rw [← foldl_xor_take_drop]; rfl
    _ = ([0, 2, 3, 4] ++ (List.range 1546).map (6 + ·)).foldl (fun acc j => acc ^^^ ws.getD j 0#16) 0#16 := by
        rw [List.foldl_append, List.foldl_map, ← foldl_xor_init]
        congr 1
        simp [headerWord]
    _ = _ := by rw [← checkedPlaces_eq]

/-! ## The swap (R148) -/

/-- A region's record at load: its deadline is armed when its period is above 0 and it does not learn (R5, R91). -/
theorem newRegion_eq (e : Entry) (gen : BitVec 10) (torn : Bool) (now : Time) :
    newRegion e gen torn now =
      { entry := e
        gen := gen
        header := if torn then .torn else .clean
        stale := false
        holdTimer := none
        deadline :=
          if 0 < e.period ∧ e.learn = false then some (now + BitVec.ofNat 32 (e.period * 1000)) else none
        lastCommit := none
        longest := 0
        proposed := e.period } := by
  by_cases h : 0 < e.period ∧ e.learn = false <;> simp [newRegion, Region.arm, Entry.watched, h]

/-- The live table: the record of each enabled entry that the torn scan took, and the pool. -/
theorem newLive_eq (ws : List Word) (found : List Found) (now : Time) :
    newLive ws found now =
      { regions := Vector.ofFn fun i : Fin 64 =>
          if (entryWord ws i 0).getLsbD 0 then
            (found.find? fun f => f.region == i).map fun f => newRegion (parseEntry ws i) f.gen f.torn now
          else none
        conds := (List.range 256).map (parseCondition ws) } := by
  unfold newLive entryEnabled parseConditions
  congr 2
  funext i
  congr 1
  cases found.find? fun f => f.region == i <;> rfl

/-! ## The completion of the Loader's access -/

/-- Outside PFAIL the completion of a read for the Loader hands it the word. -/
theorem State.completeCycle_of_loaderRead {s : State} {a : Addr} {w : Word}
    (hc : s.cycle = some { req := .loader, dir := .read, addr := a, data := w }) (hp : s.part ≠ .pfail) :
    s.completeCycle { req := .loader, dir := .read, addr := a, data := w } =
      ({ s with cycle := none } : State).loaderAdvance w := by
  simp [State.completeCycle, State.loaderDone, hp, State.memCarried_of_read hc]

/-- Outside PFAIL the completion of a write for the Loader stores it and ends the work it was made for. -/
theorem State.completeCycle_of_loaderWrite {s : State} {a : Addr} {w : Word}
    (hc : s.cycle = some { req := .loader, dir := .write, addr := a, data := w }) (hp : s.part ≠ .pfail) :
    s.completeCycle { req := .loader, dir := .write, addr := a, data := w } =
      ({ s with mem := memWrite s.mem a w, cycle := none } : State).loaderAdvance w := by
  simp [State.completeCycle, State.loaderDone, hp, State.memCarried_of_write hc]

/-- Settles O55: the row completes the clearing write, and the swap's live table and LIVE CHECK are those of `newLive_eq` and
`formCheck_eq`. -/
theorem loadSuccessPutsTheTableInForce : Obligations.LoadSuccessPutsTheTableInForce := by
  intro s ws found hr hd hp hwork hshadow hc entry
  have hcarried : s.successCarried = true := by simp [State.successCarried, State.carries, hc, hwork]
  simp only [exec, execLoadSuccess, State.completeIf_of_cycle hr hd hc hcarried,
    State.completeCycle_of_loaderWrite hc (by simp [hp]), State.loaderAdvance, hwork, State.succeedLoad, State.swap,
    State.shadowWords, hshadow, Option.getD_some, newLive_eq, newRegion_eq, parseEntry_eq, funext (parseCondition_eq ws),
    formCheck_eq, entry]

/-! ## The shadow reads (R144, R145) -/

/-- A shadow read that is not the last. -/
theorem State.loaderAdvance_of_shadowRead {s : State} {ws : List Word} (hw : s.ldr.work = .shadowRead)
    (hs : s.ldr.shadow = some ws) (hl : ws.length < 1551) (w : Word) :
    s.loaderAdvance w = { s with ldr := { s.ldr with shadow := some (ws ++ [w]), work := .shadowRead } } := by
  have hmore : ¬ shadowSize ≤ (ws ++ [w]).length := by simp [shadowSize]; omega
  simp only [State.loaderAdvance, hw, State.shadowReadDone, State.shadowWords, hs, Option.getD_some, if_neg hmore]

/-- The last shadow read: the shadow is validated. -/
theorem State.loaderAdvance_of_lastShadowRead {s : State} {ws : List Word} (hw : s.ldr.work = .shadowRead)
    (hs : s.ldr.shadow = some ws) (hl : ws.length = 1551) (w : Word) :
    s.loaderAdvance w =
      { s with
        ldr :=
          { s.ldr with
            shadow := some (ws ++ [w])
            work := match validate (ws ++ [w]) with
              | some reason => .clearFailure reason
              | none => scanWork (enabledEntries (ws ++ [w])) [] } } := by
  have hlast : shadowSize ≤ (ws ++ [w]).length := by simp [shadowSize]; omega
  simp only [State.loaderAdvance, hw, State.shadowReadDone, State.shadowWords, hs, Option.getD_some, if_pos hlast,
    State.endShadowRead]
  cases validate (ws ++ [w]) <;> rfl

/-! ## The torn scan (R147) -/

theorem storedGen_append (gen : BitVec 10) (code : BitVec 2) (low : BitVec 4) :
    storedGen (gen ++ code ++ low) = gen := by
  unfold storedGen
  rw [BitVec.extractLsb'_append_eq_of_le (by decide)]
  exact BitVec.extractLsb'_append_eq_left

theorem storedState_append (gen : BitVec 10) (code : BitVec 2) (low : BitVec 4) :
    storedState (gen ++ code ++ low) = code := by
  unfold storedState
  rw [BitVec.extractLsb'_append_eq_of_le (by decide)]
  exact BitVec.extractLsb'_append_eq_right

/-- A torn-scan read of a stored header word: what it takes of the entry, and the fault and the rewrite of a cut commit. -/
theorem State.loaderAdvance_of_tornScan {s : State} {i : Fin 64} {rest : List (Fin 64)} {found : List Found}
    {ws : List Word} (hw : s.ldr.work = .tornScan i rest found) (hs : s.ldr.shadow = some ws) (gen : BitVec 10)
    (code : BitVec 2) (low : BitVec 4) :
    s.loaderAdvance (gen ++ code ++ low) =
      let next := s.setWork (scanWork rest (found ++ [{ region := i, gen := gen, torn := decide (code ≠ 0b00#2) }]))
      if code = 0b01#2 ∨ code = 0b11#2 then
        (next.raise (.torn i (entryWord ws i 7) gen)).enqueue (.torn (entryBase ws i) gen)
      else next := by
  simp only [State.loaderAdvance, hw, State.tornScanDone, State.shadowWords, hs, Option.getD_some, storedGen_append,
    storedState_append, cutState, Bool.or_eq_true, decide_eq_true_eq, parseEntry]

/-! ## The records and rewrites of the torn scan in the Record Writer's queue (R120, R123) -/

theorem State.raise_part (s : State) (d : FaultDetail) : (s.raise d).part = s.part := by
  obtain ⟨l, a, h⟩ := s.raise_only d
  rw [h]

/-- A fault that is lost takes a number and leaves the queue (R119, R121). -/
theorem State.raise_log_of_lost {s : State} (h : s.logs = false) (d : FaultDetail) :
    (s.raise d).log = { s.log with nextSeq := s.log.nextSeq + 1 } := by
  simp [State.raise, h]

/-- The record of a fault that is logged waits behind the item in hand. -/
theorem State.raise_log_of_busy {s : State} (h : s.logs = true) (hb : s.log.inHand.isSome = true) (d : FaultDetail) :
    (s.raise d).log =
      { s.log with
        nextSeq := s.log.nextSeq + 1
        queue := s.log.queue ++ [.record { seq := s.log.nextSeq, time := s.time, detail := d }] } := by
  simp only [State.raise, h, if_true, State.setPending_log]
  exact congrArg State.log
    (State.enqueue_of_busy (s := { s with log := { s.log with nextSeq := s.log.nextSeq + 1 } }) _ hb)

/-- The record of a fault that is logged is taken in hand at once when the Record Writer holds nothing. -/
theorem State.raise_log_of_idle {s : State} (h : s.logs = true) (hh : s.log.inHand = none) (hq : s.log.queue = [])
    (d : FaultDetail) :
    (s.raise d).log =
      { s.log with
        nextSeq := s.log.nextSeq + 1
        inHand := some (.record { seq := s.log.nextSeq, time := s.time, detail := d } (s.log.producer.toNat % 32) 0) } := by
  have hp : s.part ≠ .pfail := by
    simp only [State.logs, Bool.and_eq_true, decide_eq_true_eq] at h
    obtain ⟨⟨hp, -⟩, -⟩ := h
    exact hp
  simp only [State.raise, h, if_true, State.setPending_log]
  exact congrArg State.log
    (State.enqueue_of_idle (s := { s with log := { s.log with nextSeq := s.log.nextSeq + 1 } }) _ hp hh hq)

theorem State.logs_iff {s : State} (hp : s.part ≠ .pfail) :
    s.logs = true ↔ s.log.occupancy + s.log.recordCount < 32 ∧ s.log.recordCount < 8 := by
  simp [State.logs, hp]

/-- An item behind the one in hand, by the queue and the hand that result. -/
theorem State.enqueue_behind {s : State} {i : Item} {hand : Option InHand} {queue : List Item} (hh : s.log.inHand = hand)
    (hb : hand.isSome = true) (hq : s.log.queue ++ [i] = queue) :
    s.enqueue i = { s with log := { s.log with queue := queue, inHand := hand } } := by
  rw [State.enqueue_of_busy i (by rwa [hh]), hq, ← hh]

/-- An item taken in hand at once, by the queue and the hand that result. -/
theorem State.enqueue_in_hand {s : State} {i : Item} (hp : s.part ≠ .pfail) (hh : s.log.inHand = none)
    (hq : s.log.queue = []) :
    s.enqueue i = { s with log := { s.log with queue := [], inHand := some (i.begin s.log.producer) } } := by
  rw [State.enqueue_of_idle i hp hh hq, ← hq]

/-- Settles O54: each completion is one case of `loaderAdvance`; the rewrite's place in the queue follows from the record's. -/
theorem shadowReadsAndTornScanFollowInOrder : Obligations.ShadowReadsAndTornScanFollowInOrder := by
  refine ⟨fun s ws w hr hd hp hw hs hl hc => ?_, ?_, ?_⟩
  · rw [exec_memoryCycleCompletion_of_cycle hr hd hc, State.completeCycle_of_loaderRead hc (by simp [hp])]
    exact congrArg _ (State.loaderAdvance_of_shadowRead (s := { s with cycle := none }) hw hs hl w)
  · intro s ws w hr hd hp hw hs hl hc enabled
    have hend : s.shadowEndCarried = true := by
      simp [State.shadowEndCarried, State.carries, hc, hw, State.shadowWords, hs, hl, shadowSize]
    rw [exec, execShadowReadEnd, State.completeIf_of_cycle hr hd hc hend,
      State.completeCycle_of_loaderRead hc (by simp [hp]),
      State.loaderAdvance_of_lastShadowRead (s := { s with cycle := none }) hw hs hl]
    have henabled : enabledEntries (ws ++ [w]) = enabled := rfl
    rw [henabled]
    cases validate (ws ++ [w]) with
    | some reason => rfl
    | none => cases enabled <;> rfl
  · intro s i rest found ws gen code low a hr hd hp hw hs hc all next raised
    have hexec : exec .memoryCycleCompletion s = .next
        (if code = 0b01#2 ∨ code = 0b11#2 then raised.enqueue (.torn (entryBase ws i) gen) else next) := by
      rw [exec_memoryCycleCompletion_of_cycle hr hd hc, State.completeCycle_of_loaderRead hc (by simp [hp]),
        State.loaderAdvance_of_tornScan (s := { s with cycle := none }) hw hs]
      cases rest <;> rfl
    refine ⟨hexec, fun hcut => ?_⟩
    rw [if_pos hcut, entryBase_eq] at hexec
    intro base f logged ends
    have hpn : next.part ≠ .pfail := by simp [next, hp]
    have hlogs : next.logs = true ↔ logged := State.logs_iff hpn
    refine ⟨fun hlog hbusy => ?_, fun hlog hidle hempty => ?_, fun hlost hbusy => ?_, fun hlost hidle hempty => ?_⟩
    · have hrl : raised.log = _ := State.raise_log_of_busy (hlogs.2 hlog) hbusy _
      exact hexec.trans (congrArg _ (State.enqueue_behind (by rw [hrl]) hbusy
        (by rw [hrl]; exact List.append_assoc s.log.queue [.record f] [.torn base gen])))
    · have hrl : raised.log = _ := State.raise_log_of_idle (hlogs.2 hlog) hidle hempty _
      exact hexec.trans (congrArg _ (State.enqueue_behind (by rw [hrl]) rfl
        (by rw [hrl]; exact congrArg (· ++ [.torn base gen]) hempty)))
    · have hrl : raised.log = _ := State.raise_log_of_lost (Bool.eq_false_iff.2 (mt hlogs.1 hlost)) _
      exact hexec.trans (congrArg _ (State.enqueue_behind (by rw [hrl]) hbusy (by rw [hrl])))
    · have hrl : raised.log = _ := State.raise_log_of_lost (Bool.eq_false_iff.2 (mt hlogs.1 hlost)) _
      exact hexec.trans (congrArg _ (State.enqueue_in_hand (by rwa [State.raise_part]) (by rw [hrl]; exact hidle)
        (by rw [hrl]; exact hempty)))

end Sys2Proof.Machine
end

section
/-! A region's generation: every command keeps it but the completion of its commit's CLOSING write and the swap that ends a load
(O11, R12). -/

namespace Sys2Proof.Machine

/-! ## Operations that leave the live table -/

@[simp] theorem State.enqueue_live (s : State) (i : Item) : (s.enqueue i).live = s.live := by
  obtain ⟨l, h⟩ := s.enqueue_only i
  rw [h]

@[simp] theorem State.raise_live (s : State) (d : FaultDetail) : (s.raise d).live = s.live := by
  obtain ⟨l, a, h⟩ := s.raise_only d
  rw [h]

@[simp] theorem State.handWriteBack_live (s : State) (r : Fin 64) (n : Word) : (s.handWriteBack r n).live = s.live := by
  obtain ⟨l, h⟩ := s.handWriteBack_only r n
  rw [h]

@[simp] theorem State.withdrawTorn_live (s : State) (b : Addr) : (s.withdrawTorn b).live = s.live := by
  obtain ⟨l, h⟩ := s.withdrawTorn_only b
  rw [h]

@[simp] theorem State.breakSession_live (s : State) (r : Fin 64) : (s.breakSession r).live = s.live := by
  obtain ⟨a, b, h⟩ := s.breakSession_only r
  rw [h]

@[simp] theorem State.waitForSlot_live (s : State) (p : Port) (r : Fin 64) (k : StageAsk) (v : Word) :
    (s.waitForSlot p r k v).live = s.live := by
  obtain ⟨w, a, b, h⟩ := s.waitForSlot_only p r k v
  rw [h]

@[simp] theorem State.ownerBodyWrite_live (s : State) (p : Port) (r : Fin 64) (off : Nat) (v : Word) :
    (s.ownerBodyWrite p r off v).live = s.live := by
  obtain ⟨w, x, a, b, h⟩ := s.ownerBodyWrite_only p r off v
  rw [h]

@[simp] theorem State.discardAllFilling_live (s : State) : s.discardAllFilling.live = s.live := by
  obtain ⟨x, l, a, h⟩ := s.discardAllFilling_only
  rw [h]

@[simp] theorem State.withdrawWaiting_live (s : State) : s.withdrawWaiting.live = s.live := by
  obtain ⟨w, a, b, h⟩ := s.withdrawWaiting_only
  rw [h]

@[simp] theorem State.withdrawReader_live (s : State) (p : Port) (r : Fin 64) : (s.withdrawReader p r).live = s.live := by
  obtain ⟨a, b, h⟩ := s.withdrawReader_only p r
  rw [h]

@[simp] theorem State.commitWaitToLoad_live (s : State) (p : Port) : (s.commitWaitToLoad p).live = s.live := by
  obtain ⟨a, b, h⟩ := s.commitWaitToLoad_only p
  rw [h]

@[simp] theorem State.holdScan_live (s : State) (r : Fin 64) : (s.holdScan r).live = s.live := by
  obtain ⟨n, h⟩ := s.holdScan_only r
  rw [h]

@[simp] theorem State.diagCompletion_live (s : State) (r : Fin 64) : (s.diagCompletion r).live = s.live := by
  obtain ⟨q, n, h⟩ := s.diagCompletion_only r
  rw [h]

@[simp] theorem State.ownerHeaderRead_live (s : State) (p : Port) (r : Fin 64) :
    (s.ownerHeaderRead p r).live = s.live := by
  obtain ⟨a, b, h⟩ := s.ownerHeaderRead_only p r
  rw [h]

@[simp] theorem State.ownerBodyRead_live (s : State) (p : Port) (r : Fin 64) (off : Nat) :
    (s.ownerBodyRead p r off).live = s.live := by
  obtain ⟨a, b, h⟩ := s.ownerBodyRead_only p r off
  rw [h]

@[simp] theorem State.statusRead_live (s : State) (p : Port) (w : Fin 16) : (s.statusRead p w).live = s.live := by
  obtain ⟨a, b, h⟩ := s.statusRead_only p w
  rw [h]

@[simp] theorem State.statusWrite_live (s : State) (p : Port) (a : Addr) (v : Word) :
    (s.statusWrite p a v).live = s.live := by
  obtain ⟨pa, pb, g, al, h⟩ := s.statusWrite_only p a v
  rw [h]

@[simp] theorem State.endInPfail_live (s : State) (p : Port) (a : Access) : (s.endInPfail p a).live = s.live := by
  obtain ⟨pa, pb, g, al, h⟩ := s.endInPfail_only p a
  rw [h]

@[simp] theorem State.refuse_live (s : State) (p : Port) (a : Addr) (v : Word) : (s.refuse p a v).live = s.live := by
  obtain ⟨pa, pb, g, al, h⟩ := s.refuse_only p a v
  rw [h]

@[simp] theorem State.writerAdvance_live (s : State) (w : Word) : (s.writerAdvance w).live = s.live := by
  obtain ⟨l, h⟩ := s.writerAdvance_only w
  rw [h]

@[simp] theorem State.diagDone_live (s : State) (w : Word) : (s.diagDone w).live = s.live := by
  obtain ⟨n, g, a, h⟩ := s.diagDone_only w
  rw [h]

@[simp] theorem State.beginScan_live (s : State) : s.beginScan.live = s.live := by
  obtain ⟨q, c, h⟩ := s.beginScan_only
  rw [h]

@[simp] theorem State.grant_live (s : State) : s.grant.live = s.live := by
  obtain ⟨c, k, a, b, h⟩ := s.grant_only
  rw [h]

@[simp] theorem State.expireWait_live (s : State) (p : Port) (a : Access) (c : WaitCause) :
    (s.expireWait p a c).live = s.live := by
  obtain ⟨w, pa, pb, g, al, h⟩ := s.expireWait_only p a c
  rw [h]

@[simp] theorem State.endByPfail_live (s : State) (p : Port) : (s.endByPfail p).live = s.live := by
  obtain ⟨a, b, h⟩ := s.endByPfail_only p
  rw [h]

@[simp] theorem State.record_live (s : State) (p : Port) (d : Dir) (a : Addr) (v : Word) :
    (s.record p d a v).live = s.live := by
  unfold State.record
  split
  · rfl
  · simp

/-! ## Keeping the generations -/

/-- Every region record after the operation is one the region had before, with its generation. -/
def State.KeepsGens (s t : State) : Prop :=
  ∀ r y, t.region? r = some y → ∃ x, s.region? r = some x ∧ y.gen = x.gen

theorem State.KeepsGens.refl (s : State) : s.KeepsGens s := fun _ y h => ⟨y, h, rfl⟩

theorem State.KeepsGens.trans {s t u : State} (h : s.KeepsGens t) (h' : t.KeepsGens u) : s.KeepsGens u := by
  intro r z hz
  obtain ⟨y, hy, hzy⟩ := h' r z hz
  obtain ⟨x, hx, hyx⟩ := h r y hy
  exact ⟨x, hx, hzy.trans hyx⟩

/-- An operation that leaves the live table. -/
theorem State.KeepsGens.of_live {s t : State} (h : t.live = s.live) : s.KeepsGens t :=
  fun r y hy => ⟨y, by rwa [State.region?_of_live h] at hy, rfl⟩

/-- An operation after one that leaves the live table. -/
theorem State.KeepsGens.after_live {s t u : State} (h' : t.KeepsGens u) (h : t.live = s.live) : s.KeepsGens u :=
  (State.KeepsGens.of_live h).trans h'

/-- An operation before one that leaves the live table. -/
theorem State.KeepsGens.then_live {s t u : State} (h : s.KeepsGens t) (h' : u.live = t.live) : s.KeepsGens u :=
  h.trans (.of_live h')

/-- An operation that a command makes when its event is there to be taken (log 1). -/
theorem State.KeepsGens.ite {s t : State} {c : Prop} [Decidable c] (h : s.KeepsGens t) :
    s.KeepsGens (if c then t else s) := by
  split
  · exact h
  · exact .refl s

/-- An operation after which no table is in force. -/
theorem State.KeepsGens.of_noTable {s t : State} (h : t.live = none) : s.KeepsGens t := by
  intro r y hy
  simp [State.region?, h] at hy

theorem State.updRegion_keepsGens (s : State) (r : Fin 64) {f : Region → Region} (hf : ∀ x, (f x).gen = x.gen) :
    s.KeepsGens (s.updRegion r f) := by
  intro q y hy
  rw [State.region?_updRegion] at hy
  split at hy
  · obtain ⟨x, hx, rfl⟩ := Option.map_eq_some_iff.1 hy
    exact ⟨x, hx, hf x⟩
  · exact ⟨y, hy, rfl⟩

theorem State.mapRegions_keepsGens (s : State) {f : Region → Region} (hf : ∀ x, (f x).gen = x.gen) :
    s.KeepsGens (s.mapRegions f) := by
  intro q y hy
  rw [State.region?_mapRegions] at hy
  obtain ⟨x, hx, rfl⟩ := Option.map_eq_some_iff.1 hy
  exact ⟨x, hx, hf x⟩

/-! ### Deferral and the Stage Pool -/

theorem State.noteDeferral_keepsGens (s : State) (r : Fin 64) : s.KeepsGens (s.noteDeferral r) := by
  refine s.updRegion_keepsGens r fun x => ?_
  split
  · split <;> rfl
  · rfl

theorem State.expireHold_keepsGens (s : State) (r : Fin 64) : s.KeepsGens (s.expireHold r) :=
  State.KeepsGens.after_live (State.updRegion_keepsGens _ r fun _ => rfl) (s.breakSession_live r)

theorem State.sealAs_keepsGens (s : State) (k : Fin 12) (r : Fin 64) (ws : List (Nat × Word)) :
    s.KeepsGens (s.sealAs k r ws) :=
  State.KeepsGens.after_live (State.noteDeferral_keepsGens _ r) rfl

theorem State.giveSlot_keepsGens (s : State) (k : Fin 12) (r : Fin 64) (q : StageAsk) (v : Word) :
    s.KeepsGens (s.giveSlot k r q v) := by
  unfold State.giveSlot
  split
  · exact .of_live rfl
  · exact .of_live rfl
  · exact s.sealAs_keepsGens _ _ _
  · exact s.sealAs_keepsGens _ _ _
  · exact .refl s

theorem State.serveEntry_keepsGens (s : State) (e : WaitEntry) : s.KeepsGens (s.serveEntry e) := by
  unfold State.serveEntry
  split
  · refine State.KeepsGens.then_live ?_ (State.endAccess_live _ _ _)
    exact State.KeepsGens.after_live (State.giveSlot_keepsGens _ _ _ _ _) rfl
  · exact .of_live (by simp)

theorem serveList_keepsGens (es : List WaitEntry) (s : State) : s.KeepsGens (serveList es s) := by
  induction es generalizing s with
  | nil => exact .refl s
  | cons e rest ih => exact (s.serveEntry_keepsGens e).trans (ih (s.serveEntry e))

theorem State.ownerSeal_keepsGens (s : State) (p : Port) (r : Fin 64) : s.KeepsGens (s.ownerSeal p r) := by
  unfold State.ownerSeal
  split
  · exact State.KeepsGens.then_live (s.sealAs_keepsGens _ _ _) (State.endAccess_live _ _ _)
  · exact (serveList_keepsGens _ _).after_live (by simp [State.setSlot])
  · exact .of_live (by simp)
  · split
    · exact State.KeepsGens.then_live (s.sealAs_keepsGens _ _ _) (State.endAccess_live _ _ _)
    · exact .of_live (by simp)

/-! ### The Session Tables -/

theorem State.evict_keepsGens (s : State) (p : Port) : s.KeepsGens (s.evict p) := by
  unfold State.evict
  split
  · exact .refl s
  · split
    · exact (State.noteDeferral_keepsGens _ _).after_live (by simp)
    · exact .refl s

theorem State.openSession_keepsGens (s : State) (p : Port) (r : Fin 64) : s.KeepsGens (s.openSession p r) :=
  (State.noteDeferral_keepsGens _ r).after_live (by simp)

theorem State.closeSession_keepsGens (s : State) (p : Port) (r : Fin 64) : s.KeepsGens (s.closeSession p r) :=
  (State.noteDeferral_keepsGens _ r).after_live (by simp)

theorem State.takeReaderHeader_keepsGens (s : State) (p : Port) (r : Fin 64) : s.KeepsGens (s.takeReaderHeader p r) := by
  unfold State.takeReaderHeader
  split
  · split
    · exact (s.closeSession_keepsGens p r).then_live (by simp)
    · exact ((s.evict_keepsGens p).trans (State.openSession_keepsGens _ p r)).then_live (by simp)
  · exact .refl s

theorem State.readerHeaderRead_keepsGens (s : State) (p : Port) (r : Fin 64) : s.KeepsGens (s.readerHeaderRead p r) := by
  unfold State.readerHeaderRead
  split
  · exact .of_live (by simp)
  · exact s.takeReaderHeader_keepsGens p r

theorem State.releaseReader_keepsGens (s : State) (p : Port) (r : Fin 64) : s.KeepsGens (s.releaseReader p r) := by
  unfold State.releaseReader
  split
  · split
    · exact s.takeReaderHeader_keepsGens p r
    · split
      · exact .of_live (by simp)
      · exact .refl s
  · exact .refl s

/-! ### The Deadline Unit -/

theorem Region.arm_gen (x : Region) (now : Time) : (x.arm now).gen = x.gen := by
  unfold Region.arm; split <;> rfl

theorem State.raiseLongest_keepsGens (s : State) (r : Fin 64) (x : Region) (ms : Nat) :
    s.KeepsGens (s.raiseLongest r x ms) := by
  unfold State.raiseLongest
  dsimp only
  split
  · exact s.updRegion_keepsGens r fun _ => rfl
  · refine State.KeepsGens.then_live (s.updRegion_keepsGens r fun _ => ?_) (State.handWriteBack_live _ _ _)
    rfl

theorem State.takeSample_keepsGens (s : State) (r : Fin 64) (x : Region) : s.KeepsGens (s.takeSample r x) := by
  have timed := s.updRegion_keepsGens r (f := fun y => { y with lastCommit := some s.time }) fun _ => rfl
  unfold State.takeSample
  split
  · exact timed
  · dsimp only
    split
    · exact timed.trans (State.raiseLongest_keepsGens _ r x _)
    · exact timed

theorem State.deadlineCompletion_keepsGens (s : State) (r : Fin 64) : s.KeepsGens (s.deadlineCompletion r) := by
  unfold State.deadlineCompletion
  split
  · split
    · exact s.takeSample_keepsGens r _
    · exact s.updRegion_keepsGens r fun y => y.arm_gen s.time
  · exact .refl s

theorem State.expireDeadline_keepsGens (s : State) (r : Fin 64) : s.KeepsGens (s.expireDeadline r) := by
  have marked := s.updRegion_keepsGens r (f := fun y => { y with stale := true, deadline := none }) fun _ => rfl
  unfold State.expireDeadline
  split
  · dsimp only
    split
    · exact marked.then_live (State.raise_live _ _)
    · exact marked.then_live (State.raise_live _ _)
  · exact .refl s

/-! ### The Commit Engine -/

theorem State.startCommit_keepsGens (s : State) (k : Fin 12) (r : Fin 64) (x : Region) :
    s.KeepsGens (s.startCommit k r x) := by
  refine State.KeepsGens.then_live ?_
    ((State.withdrawTorn_live _ _).trans ((State.holdScan_live _ _).trans ((State.withdrawReader_live _ _ _).trans
      (State.breakSession_live _ _))))
  exact State.KeepsGens.after_live (State.updRegion_keepsGens _ r fun _ => rfl) rfl

theorem State.startSelected_keepsGens (s : State) : s.KeepsGens s.startSelected := by
  unfold State.startSelected
  split
  · split
    · split
      · exact s.startCommit_keepsGens _ _ _
      · exact .refl s
    · exact .refl s
  · exact .refl s

/-- What a completion tells the blocks that wait on it leaves every generation. -/
theorem State.tellCompletion_keepsGens (s : State) (r : Fin 64) : s.KeepsGens (s.tellCompletion r) :=
  ((((serveList_keepsGens s.waiting s).trans (State.releaseReader_keepsGens _ .a r)).trans
    (State.releaseReader_keepsGens _ .b r)).trans (State.deadlineCompletion_keepsGens _ r)).then_live
    (State.diagCompletion_live _ r)

/-- The completion of a commit gives its region the next generation, and every other region keeps its own (R83). -/
theorem State.finishCommit_gens (s : State) (c : CommitRec) {r : Fin 64} {y : Region}
    (hy : (s.finishCommit c).region? r = some y) :
    c.region = r ∧ y.gen = c.oldGen + 1 ∨ ∃ x, s.region? r = some x ∧ y.gen = x.gen := by
  unfold State.finishCommit at hy
  dsimp only at hy
  generalize hdone : ({ (s.updRegion c.region fun y =>
      { y with gen := c.oldGen + 1, header := .clean, stale := false }).setSlot c.slot Slot.empty with
      commit := none } : State) = done at hy
  have htold : ∃ z, done.region? r = some z ∧ y.gen = z.gen := by
    split at hy
    · exact ⟨y, hy, rfl⟩
    · exact done.tellCompletion_keepsGens c.region r y hy
  obtain ⟨z, hz, hyz⟩ := htold
  have hlive : done.live = (s.updRegion c.region fun y =>
      { y with gen := c.oldGen + 1, header := .clean, stale := false }).live := by rw [← hdone]; rfl
  rw [State.region?_of_live hlive, State.region?_updRegion] at hz
  split at hz
  · obtain ⟨x, -, rfl⟩ := Option.map_eq_some_iff.1 hz
    exact .inl ⟨‹_›, hyz⟩
  · exact .inr ⟨z, hz, hyz⟩

/-! ### The Access Classifier -/

theorem State.regionAccess_keepsGens (s : State) (p : Port) (a : Access) (r : Fin 64) (x : Region) :
    s.KeepsGens (s.regionAccess p a r x) := by
  unfold State.regionAccess
  dsimp only
  split
  · split
    · split
      · exact s.ownerSeal_keepsGens p r
      · exact .of_live (by simp)
    · split
      · exact .of_live (by simp)
      · exact .of_live (by simp)
  · split
    · exact .of_live (by simp)
    · split
      · exact s.readerHeaderRead_keepsGens p r
      · exact .of_live (State.hold_live _ _ _ _)

theorem State.statusAccess_live (s : State) (p : Port) (a : Access) : (s.statusAccess p a).live = s.live := by
  unfold State.statusAccess
  split
  · simp
  · split
    · exact State.hold_live _ _ _ _
    · simp

theorem State.controlAccess_live (s : State) (p : Port) (a : Access) : (s.controlAccess p a).live = s.live := by
  have guarded :
      (if protectedWrite p a.dir a.addr then s.refuse p a.addr a.value else s.passToMemory p).live = s.live := by
    split
    · simp
    · exact State.hold_live _ _ _ _
  unfold State.controlAccess
  cases s.part with
  | active | draining => exact guarded
  | loading | bypass | pfail => exact State.hold_live _ _ _ _

theorem State.lowAccess_keepsGens (s : State) (p : Port) (a : Access) : s.KeepsGens (s.lowAccess p a) := by
  have waits (c : WaitCause) (k : AccessClass) : s.KeepsGens (s.hold p c k) := .of_live (State.hold_live _ _ _ _)
  unfold State.lowAccess
  cases s.part with
  | loading | bypass | pfail => exact waits _ _
  | draining => dsimp only; split <;> exact waits _ _
  | active =>
    dsimp only
    split
    · split
      · exact s.regionAccess_keepsGens _ _ _ _
      · exact waits _ _
    · exact waits _ _

theorem State.dispatch_keepsGens (s : State) (p : Port) (a : Access) : s.KeepsGens (s.dispatch p a) := by
  unfold State.dispatch
  split
  · exact .of_live (by simp)
  · split
    · exact .of_live (s.statusAccess_live p a)
    · split
      · exact .of_live (s.controlAccess_live p a)
      · exact s.lowAccess_keepsGens p a

theorem State.arrive_keepsGens (s : State) (p : Port) (d : Dir) (a : Addr) (v : Word) :
    s.KeepsGens (s.arrive p d a v) :=
  (State.dispatch_keepsGens _ p _).after_live (by simp)

theorem State.offer_keepsGens (s : State) (p : Port) (d : Dir) (a : Addr) (v : Word) : s.KeepsGens (s.offer p d a v) := by
  unfold State.offer
  split
  · exact .refl s
  · split
    · exact .of_live (by simp)
    · split
      · exact .of_live (by simp)
      · exact (State.arrive_keepsGens _ p d a v).after_live (by simp)

theorem State.takeAfresh_keepsGens (s : State) (p : Port) : s.KeepsGens (s.takeAfresh p) := by
  unfold State.takeAfresh
  split
  · split
    · exact s.dispatch_keepsGens p _
    · exact .refl s
  · exact .refl s

theorem State.releaseLoad_keepsGens (s : State) : s.KeepsGens s.releaseLoad := by
  have both (t : State) (p q : Port) (h : t.live = s.live) : s.KeepsGens ((t.takeAfresh p).takeAfresh q) :=
    ((t.takeAfresh_keepsGens p).trans (State.takeAfresh_keepsGens _ q)).after_live h
  unfold State.releaseLoad
  dsimp only
  split
  · split
    · exact both _ .a .b rfl
    · exact both _ .b .a rfl
  · exact both _ .a .b rfl

/-! ### The Table Loader, but for the swap -/

theorem State.shadowReadDone_live (s : State) (w : Word) : (s.shadowReadDone w).live = s.live := by
  unfold State.shadowReadDone State.endShadowRead
  dsimp only
  split
  · split <;> rfl
  · rfl

theorem State.tornScanDone_live (s : State) (i : Fin 64) (rest : List (Fin 64)) (found : List Found) (w : Word) :
    (s.tornScanDone i rest found w).live = s.live := by
  unfold State.tornScanDone
  dsimp only
  split
  · exact (State.enqueue_live _ _).trans (State.raise_live _ _)
  · rfl

/-- The return to a load's origin with no table set aside leaves no table, or the one in force. -/
theorem State.returnToOrigin_keepsGens {s : State} (hret : s.retained = none) : s.KeepsGens s.returnToOrigin := by
  unfold State.returnToOrigin
  split
  · exact .of_noTable (by simp [hret])
  · exact .of_live rfl
  · exact .of_live rfl

theorem State.failLoad_keepsGens {s : State} (hret : s.retained = none) (reason : LoadResult) :
    s.KeepsGens (s.failLoad reason) := by
  have hret' : ((s.raise (.load reason.code reason.index)).dropShadow reason).retained = none := by
    obtain ⟨l, a, h⟩ := s.raise_only (.load reason.code reason.index)
    rw [h]; exact hret
  exact ((State.returnToOrigin_keepsGens hret').after_live (s.raise_live _)).trans (State.releaseLoad_keepsGens _)

theorem State.finishUnload_keepsGens (s : State) : s.KeepsGens s.finishUnload :=
  State.KeepsGens.trans (.of_noTable rfl) (State.releaseLoad_keepsGens _)

theorem State.enterDraining_keepsGens (s : State) (c : Command) : s.KeepsGens (s.enterDraining c) := by
  refine State.KeepsGens.then_live ?_ (State.discardAllFilling_live _)
  refine State.KeepsGens.after_live (State.mapRegions_keepsGens _ fun _ => rfl) ?_
  simp

theorem State.takeCommand_keepsGens (s : State) (c : Command) (waited : Bool) :
    s.KeepsGens (s.takeCommand c waited) := by
  have busy : s.KeepsGens s.raiseBusy := .of_live (s.raise_live _)
  unfold State.takeCommand
  split
  · exact busy
  · split
    · exact .of_live rfl
    · exact .refl s
    · exact s.enterDraining_keepsGens _
    · exact busy
    · exact busy
    · exact busy

theorem State.endDrain_keepsGens (s : State) : s.KeepsGens s.endDrain := by
  have disarmed : s.KeepsGens (s.mapRegions Region.disarm) := s.mapRegions_keepsGens fun _ => rfl
  unfold State.endDrain
  dsimp only
  split
  · exact .of_noTable rfl
  · exact disarmed
  · exact disarmed

/-- What the completion of the Loader's access does, but for the swap. -/
theorem State.loaderAdvance_keepsGens {s : State} (hret : s.retained = none) (hw : ∀ found, s.ldr.work ≠ .clearSuccess found)
    (w : Word) : s.KeepsGens (s.loaderAdvance w) := by
  unfold State.loaderAdvance
  split
  · exact .refl s
  · exact .of_live rfl
  · unfold State.startUpDone
    split <;> exact .of_live rfl
  · exact .of_live (s.shadowReadDone_live w)
  · exact .of_live (s.tornScanDone_live _ _ _ _)
  · rename_i found hfound
    exact absurd hfound (hw found)
  · exact State.failLoad_keepsGens hret _
  · exact s.finishUnload_keepsGens

theorem State.hostDone_keepsGens (s : State) (p : Port) (c : Cycle) : s.KeepsGens (s.hostDone p c) := by
  have answered (d : Option Word) : (if s.part = .pfail then s else s.endAccess p d).live = s.live := by
    split
    · rfl
    · simp
  unfold State.hostDone
  dsimp only
  split
  · exact (State.takeCommand_keepsGens _ _ _).after_live (answered _)
  · exact .of_live (answered _)

/-! ### The lines -/

theorem State.enterPfail_keepsGens (s : State) : s.KeepsGens s.enterPfail := by
  refine State.KeepsGens.after_live (State.mapRegions_keepsGens _ fun _ => rfl) ?_
  simp [State.freeStaged, State.dropQueue]

theorem State.takeFall_keepsGens (s : State) : s.KeepsGens s.takeFall := by
  unfold State.takeFall
  split
  · exact .refl s
  · exact s.enterPfail_keepsGens

theorem State.takeDueFall_keepsGens (s : State) : s.KeepsGens s.takeDueFall :=
  .ite s.takeFall_keepsGens

theorem State.resetLow_keepsGens (s : State) (periods : Nat) : s.KeepsGens (s.resetLow periods) := by
  unfold State.resetLow
  split
  · exact .refl s
  · split
    · exact .of_noTable rfl
    · exact .ite (s.takeDueFall_keepsGens.then_live rfl)

theorem State.takeDueReset_keepsGens (s : State) : s.KeepsGens s.takeDueReset :=
  .ite (s.resetLow_keepsGens _)

theorem State.takeRecorded_keepsGens (s : State) (p : Port) (q : Option Recorded) : s.KeepsGens (s.takeRecorded p q) := by
  unfold State.takeRecorded
  split
  · exact s.arrive_keepsGens p _ _ _
  · exact .refl s

/-- The release leaves no table. -/
theorem State.release_keepsGens (s : State) (pfailLow : Bool) : s.KeepsGens (s.release pfailLow) := by
  have both (t : State) (p q : Port) (ra rb : Option Recorded) (h : t.live = none) :
      s.KeepsGens ((t.takeRecorded p ra).takeRecorded q rb) :=
    State.KeepsGens.trans (.of_noTable h)
      ((t.takeRecorded_keepsGens p ra).trans (State.takeRecorded_keepsGens _ q rb))
  unfold State.release
  dsimp only
  split
  · split
    · exact both _ .a .b _ _ rfl
    · exact both _ .b .a _ _ rfl
  · exact both _ .a .b _ _ rfl

theorem State.endShortPulse_keepsGens (s : State) (pfailLow : Bool) : s.KeepsGens (s.endShortPulse pfailLow) := by
  unfold State.endShortPulse
  dsimp only
  split
  · exact (State.takeFall_keepsGens _).after_live rfl
  · exact .of_live rfl

theorem State.pfailFalls_keepsGens (s : State) : s.KeepsGens s.pfailFalls := by
  unfold State.pfailFalls
  dsimp only
  split
  · exact (State.takeFall_keepsGens _).after_live rfl
  · exact .of_live rfl

theorem State.loseSupply_keepsGens (s : State) : s.KeepsGens s.loseSupply := by
  unfold State.loseSupply
  dsimp only
  split
  · split <;> exact .of_noTable rfl
  · exact .of_noTable rfl

/-! ## The two events that change a generation -/

/-- The event gives region `r` the generation `g` as R12 has it: at the completion of its commit's CLOSING write, or at the
swap. -/
def State.GenEvent (s t : State) (r : Fin 64) (g : BitVec 10) : Prop :=
  (∃ cm, s.commit = some cm ∧ cm.region = r ∧ s.closingCarried = true ∧ g = cm.oldGen + 1
      ∧ t.cycle = none ∧ t.commit = none)
    ∨ s.successCarried = true ∧ t.cycle = none ∧ t.ldr.work = .idle ∧ t.part = .active

/-- Every generation after the event is the region's own before it, or one that R12 has it take. -/
def State.GensByRule (s t : State) : Prop :=
  ∀ r y, t.region? r = some y → (∃ x, s.region? r = some x ∧ y.gen = x.gen) ∨ s.GenEvent t r y.gen

theorem State.KeepsGens.byRule {s t : State} (h : s.KeepsGens t) : s.GensByRule t := fun r y hy => .inl (h r y hy)

/-- The completion of the commit's write. -/
theorem State.commitWriteDone_byRule {s : State} {c : Cycle} (hc : s.cycle = some c) (hq : c.req = .commit) (m : Memory) :
    s.GensByRule ({ s with mem := m, cycle := none } : State).commitWriteDone := by
  generalize hu : ({ s with mem := m, cycle := none } : State) = u
  have hlive : u.live = s.live := by rw [← hu]
  have hcommit : u.commit = s.commit := by rw [← hu]
  have hcycle : u.cycle = none := by rw [← hu]
  unfold State.commitWriteDone
  split
  · rename_i cm hcm
    split
    · rename_i hclosing
      rw [hcommit] at hcm
      have hcarried : s.closingCarried = true := by simp [State.closingCarried, State.carries, hc, hq, hcm, hclosing]
      obtain ⟨w, sl, q, l, pa, pb, a, b, g, dq, n, h⟩ := u.finishCommit_only cm
      intro r y hy
      rcases u.finishCommit_gens cm hy with ⟨hr, hg⟩ | hkept
      · exact .inr (.inl ⟨cm, hcm, hr, hcarried, hg, by rw [h]; exact hcycle, by rw [h]⟩)
      · rw [State.region?_of_live hlive] at hkept
        exact .inl hkept
    · exact State.KeepsGens.byRule (.of_live hlive)
  · exact State.KeepsGens.byRule (.of_live hlive)

/-- The completion of the Loader's access. -/
theorem State.loaderDone_byRule {s : State} {c : Cycle} (hret : s.retained = none) (hc : s.cycle = some c)
    (hq : c.req = .loader) (m : Memory) (w : Word) :
    s.GensByRule (({ s with mem := m, cycle := none } : State).loaderDone w) := by
  generalize hu : ({ s with mem := m, cycle := none } : State) = u
  have hlive : u.live = s.live := by rw [← hu]
  have hcycle : u.cycle = none := by rw [← hu]
  have hldr : u.ldr = s.ldr := by rw [← hu]
  have hret' : u.retained = none := by rw [← hu]; exact hret
  unfold State.loaderDone
  split
  · exact State.KeepsGens.byRule (.of_live hlive)
  · by_cases hw : ∃ found, u.ldr.work = .clearSuccess found
    · obtain ⟨found, hw⟩ := hw
      have hcarried : s.successCarried = true := by
        simp [State.successCarried, State.carries, hc, hq, ← hldr, hw]
      have hadvance : u.loaderAdvance w = (u.swap found).releaseLoad := by
        simp only [State.loaderAdvance, hw, State.succeedLoad]
      obtain ⟨n, pa, pb, wt, sl, q, l, a, b, g, al, h⟩ := (u.swap found).releaseLoad_only
      intro r y _
      refine .inr (.inr ⟨hcarried, ?_⟩)
      rw [hadvance, h]
      exact ⟨hcycle, rfl, rfl⟩
    · exact ((State.loaderAdvance_keepsGens hret' (fun found h => hw ⟨found, h⟩) w).after_live hlive).byRule

/-- The completion of the cycle carried. -/
theorem State.completeCycle_byRule {s : State} {c : Cycle} (hret : s.retained = none) (hc : s.cycle = some c) :
    s.GensByRule (s.completeCycle c) := by
  unfold State.completeCycle
  dsimp only
  split
  · exact State.KeepsGens.byRule (State.KeepsGens.after_live
      (State.hostDone_keepsGens { s with mem := s.memCarried, cycle := none } _ c) rfl)
  · exact State.commitWriteDone_byRule hc ‹_› _
  · exact State.loaderDone_byRule hret hc ‹_› _ _
  · exact State.KeepsGens.byRule (.of_live (State.writerAdvance_live _ _))
  · exact State.KeepsGens.byRule (.of_live (State.diagDone_live _ _))

/-- A fall of PFAIL_N that is taken first changes no generation, leaves the commit and the cycle carried, and ends the Loader's
work. -/
theorem State.GensByRule.after_enterPfail {s t : State} (h : s.enterPfail.GensByRule t) : s.GensByRule t := by
  obtain ⟨pins, ld, l, pa, pb, w, sl, q, g, al, hu⟩ := s.enterPfail_only
  have hcommit : s.enterPfail.commit = s.commit := by rw [hu]
  have hclosing : s.enterPfail.closingCarried = s.closingCarried := by rw [hu]; rfl
  have hsuccess : s.enterPfail.successCarried = false := by
    have hidle : s.enterPfail.ldr.work = .idle := rfl
    simp [State.successCarried, hidle]
  intro r y hy
  rcases h r y hy with ⟨z, hz, hyz⟩ | ⟨cm, hcm, hr, hcl, hrest⟩ | ⟨hsu, -⟩
  · obtain ⟨x, hx, hzx⟩ := s.enterPfail_keepsGens r z hz
    exact .inl ⟨x, hx, hyz.trans hzx⟩
  · exact .inr (.inl ⟨cm, hcommit ▸ hcm, hr, hclosing ▸ hcl, hrest⟩)
  · simp [hsuccess] at hsu

/-- A completion at the memory port, with a due fall taken first. -/
theorem State.complete_byRule {s : State} (hret : s.retained = none) : s.GensByRule s.complete := by
  have hret' : s.takeDueFall.retained = none := by
    rcases s.takeDueFall_cases with ⟨h, -⟩ | ⟨h, -, -⟩
    · rw [h, hret]
    · obtain ⟨pins, ld, l, pa, pb, w, sl, q, g, al, hu⟩ := s.enterPfail_only
      rw [h, hu]; exact hret
  have hafter : s.takeDueFall.GensByRule s.complete := by
    unfold State.complete
    dsimp only
    split
    · exact State.completeCycle_byRule hret' ‹_›
    · exact State.KeepsGens.byRule (.refl _)
  rcases s.takeDueFall_cases with ⟨h, -⟩ | ⟨h, -, -⟩
  · rwa [h] at hafter
  · rw [h] at hafter
    exact hafter.after_enterPfail

theorem State.completeIf_byRule {s : State} (hret : s.retained = none) (atHand : Bool) :
    s.GensByRule (s.completeIf atHand) := by
  unfold State.completeIf
  split
  · exact State.complete_byRule hret
  · exact State.KeepsGens.byRule (.refl s)

/-- ACCESS_ARRIVAL, whatever the strobes do. -/
theorem exec_accessArrival_keepsGens (s : State) (p : Port) (oe we : Bool) (a : Addr) (v : Word) :
    ∃ t, exec (.accessArrival p oe we a v) s = .next t ∧ s.KeepsGens t := by
  refine ⟨_, rfl, ?_⟩
  split
  · exact s.offer_keepsGens _ _ _ _
  · split
    · exact s.offer_keepsGens _ _ _ _
    · exact .ite (.of_live (by simp))

theorem exec_waitLimitExpiry_keepsGens (s : State) (p : Port) :
    ∃ t, exec (.waitLimitExpiry p) s = .next t ∧ s.KeepsGens t := by
  refine ⟨_, rfl, .ite ?_⟩
  split
  · split
    · exact .of_live (by simp)
    · exact .refl s
  · exact .refl s

/-- Every command changes generations only as R12 has it. -/
theorem exec_gensByRule (c : Instr) {s : State} (hret : s.retained = none) :
    ∃ t, exec c s = .next t ∧ s.GensByRule t := by
  have kept {t : State} (h : s.KeepsGens t) :
      ∃ u, (.next t : Host.Outcome State Fault Refusal) = .next u ∧ s.GensByRule u := ⟨t, rfl, h.byRule⟩
  cases c with
  | accessArrival p oe we a v =>
    obtain ⟨t, ht, h⟩ := exec_accessArrival_keepsGens s p oe we a v
    exact ⟨t, ht, h.byRule⟩
  | alertMaskWrite v | acknowledge v | alertHoldoffWrite v | faultConsumerWrite v | timeLowRead p =>
    exact kept (s.offer_keepsGens _ _ _ _)
  | statusBlockWriteRefused p w v =>
    refine kept (t := if statusWritable p w then s else s.offer p .write (statusAddr w) v) ?_
    split
    · exact .refl s
    · exact s.offer_keepsGens _ _ _ _
  | loadCommand | unloadCommand | startUpReadsQualify | memoryCycleCompletion | commitCompletion | scanEnd | faultRecordEnd
  | writeBackEnd | shadowReadEnd | loadSuccess | loadFailure | unloadEnd =>
    exact ⟨_, rfl, State.completeIf_byRule hret _⟩
  | resetNFalling n => exact kept (s.resetLow_keepsGens n)
  | shortResetPulseEnd low => exact kept (.ite (s.endShortPulse_keepsGens low))
  | resetNRelease low => exact kept (s.takeDueReset_keepsGens.trans (.ite (State.release_keepsGens _ low)))
  | pfailNFalling => exact kept (.ite s.pfailFalls_keepsGens)
  | holdTimerExpiry r => exact kept (.ite (s.expireHold_keepsGens r))
  | deadlineExpiry r => exact kept (.ite (s.expireDeadline_keepsGens r))
  | waitLimitExpiry p =>
    obtain ⟨t, ht, h⟩ := exec_waitLimitExpiry_keepsGens s p
    exact ⟨t, ht, h.byRule⟩
  | holdoffExpiry => exact kept (.ite (.of_live rfl))
  | arbiterGrant => exact kept (.ite (.of_live s.grant_live))
  | commitStart => exact kept (.ite s.startSelected_keepsGens)
  | scanStart => exact kept (.ite (.of_live s.beginScan_live))
  | drainEnd => exact kept (.ite s.endDrain_keepsGens)
  | lossOfSupply => exact kept (.ite s.loseSupply_keepsGens)

/-- Settles O11: a generation that differs is none that the command keeps. -/
theorem generationChangesOnlyAtCompletionOrLoad : Obligations.GenerationChangesOnlyAtCompletionOrLoad := by
  intro c s t r x y hret hexec hx hy hne
  obtain ⟨u, hu, h⟩ := exec_gensByRule c hret
  obtain rfl : u = t := Host.Outcome.next.inj (hu.symm.trans hexec)
  rcases h r y hy with ⟨x', hx', hg⟩ | hevent
  · obtain rfl : x = x' := Option.some.inj (hx.symm.trans hx')
    exact absurd hg hne
  · exact hevent

end Sys2Proof.Machine
end

section
/-! The Stage Pool's forms (O4, O9): the Commit Queue is exactly the SEALED slots, the slots keep R20's limit, their words
rise by offset. First the moves of a slot, then every command as a sequence of them. -/

namespace Sys2Proof.Machine

/-! ## The links of a region (R20) -/

/-- The slot a region's link names is in that state and the region's. -/
theorem State.slotIn_eq_some {s : State} {st : SlotState} {r : Fin 64} {k : Fin 12} (h : s.slotIn st r = some k) :
    s.slots[k].state = st ∧ s.slots[k].region = some r := by
  obtain ⟨hk, -⟩ := find?_finRange_eq_some.1 h
  simpa using hk

/-- A region with no link has no slot in that state. -/
theorem State.slotIn_eq_none {s : State} {st : SlotState} {r : Fin 64} :
    s.slotIn st r = none ↔ ∀ k : Fin 12, s.slots[k].state = st → s.slots[k].region ≠ some r := by
  simp [State.slotIn]

/-- A region that does not hold S+C has no SEALED slot beside a COMMITTING one. -/
theorem State.holdsSealedAndCommitting_eq_false {s : State} {r : Fin 64} (h : s.holdsSealedAndCommitting r = false)
    {i j : Fin 12} (hi : s.slots[i].state = .sealed) (hj : s.slots[j].state = .committing)
    (hr : s.slots[i].region = some r) : s.slots[j].region ≠ some r := by
  rw [State.holdsSealedAndCommitting, Bool.and_eq_false_iff, Option.isSome_eq_false_iff, Option.isNone_iff_eq_none,
    Option.isSome_eq_false_iff, Option.isNone_iff_eq_none, State.sealedLink, State.committingLink, State.slotIn_eq_none,
    State.slotIn_eq_none] at h
  rcases h with h | h
  · exact absurd hr (h i hi)
  · exact h j hj

/-! ## The words of a slot (R17) -/

theorem cellsRising_put {m : List (Nat × Word)} (a : Nat) (w : Word) (h : cellsRising m = true) :
    cellsRising (cellsPut m a w) = true := by
  rw [cellsRising_iff] at h ⊢
  exact cellsPut_rising a w h

theorem cellsRising_mergeWords {m : List (Nat × Word)} (ws : List (Nat × Word)) (h : cellsRising m = true) :
    cellsRising (mergeWords m ws) = true := by
  induction ws generalizing m with
  | nil => exact h
  | cons c rest ih => exact ih (cellsRising_put _ _ h)

/-- A slot with rising words takes rising words. -/
theorem State.setSlot_wordsRising {s : State} (k : Fin 12) {x : Slot} (h : s.wordsRising)
    (hx : cellsRising x.words = true) : (s.setSlot k x).wordsRising := by
  intro j
  rw [s.slots_setSlot_get]
  split
  · exact hx
  · exact h j

/-! ## Keeping the forms -/

/-- What the forms speak of: the slots, the Commit Queue and the commit in progress. -/
def State.pool (s : State) : Vector Slot 12 × List (Fin 12) × Option CommitRec := (s.slots, s.commitQueue, s.commit)

/-- The operation keeps the three forms; that of the slots where the Commit Queue has its own. -/
def State.KeepsPool (s t : State) : Prop :=
  (s.queueExact → t.queueExact ∧ (s.slotsExact → t.slotsExact)) ∧ (s.wordsRising → t.wordsRising)

theorem State.KeepsPool.refl (s : State) : s.KeepsPool s := ⟨fun h => ⟨h, id⟩, id⟩

theorem State.KeepsPool.trans {s t u : State} (h : s.KeepsPool t) (h' : t.KeepsPool u) : s.KeepsPool u := by
  obtain ⟨hq, hw⟩ := h
  obtain ⟨hq', hw'⟩ := h'
  refine ⟨fun hs => ?_, fun hs => hw' (hw hs)⟩
  obtain ⟨ht, htx⟩ := hq hs
  obtain ⟨hu, hux⟩ := hq' ht
  exact ⟨hu, fun hx => hux (htx hx)⟩

/-- The forms depend on the pool alone. -/
theorem State.KeepsPool.of_pool {s t : State} (h : t.pool = s.pool) : s.KeepsPool t := by
  obtain ⟨hs, hq, hc⟩ : t.slots = s.slots ∧ t.commitQueue = s.commitQueue ∧ t.commit = s.commit := by
    simpa [State.pool] using h
  unfold State.KeepsPool State.queueExact State.slotsExact State.wordsRising
  rw [hs, hq, hc]
  exact ⟨fun h => ⟨h, id⟩, id⟩

/-- An operation after one that leaves the pool. -/
theorem State.KeepsPool.after_pool {s t u : State} (h' : t.KeepsPool u) (h : t.pool = s.pool) : s.KeepsPool u :=
  (State.KeepsPool.of_pool h).trans h'

/-- An operation before one that leaves the pool. -/
theorem State.KeepsPool.then_pool {s t u : State} (h : s.KeepsPool t) (h' : u.pool = t.pool) : s.KeepsPool u :=
  h.trans (.of_pool h')

/-- An operation that a command makes when its event is there to be taken (log 1). -/
theorem State.KeepsPool.ite {s t : State} {c : Prop} [Decidable c] (h : s.KeepsPool t) :
    s.KeepsPool (if c then t else s) := by
  split
  · exact h
  · exact .refl s

/-! ## The moves of a slot -/

/-- A slot that is not FREE takes other words (R21, R31). -/
theorem State.setWords_keepsPool {s : State} {k : Fin 12} {x : Slot} (hk : s.slots[k].state ≠ .free)
    (hstate : x.state = s.slots[k].state) (hregion : x.region = s.slots[k].region)
    (hw : s.wordsRising → cellsRising x.words = true) : s.KeepsPool (s.setSlot k x) := by
  have hget := fun j => s.slots_setSlot_get k j x
  refine ⟨fun ⟨hq, hn, hc⟩ => ⟨⟨fun j => ?_, hn, fun c => ?_⟩, fun ⟨hone, hthree, hempty, hcommit⟩ =>
    ⟨fun i j => ?_, fun h i j => ?_, fun j => ?_, fun j => ?_⟩⟩, fun h => s.setSlot_wordsRising k h (hw h)⟩
  all_goals simp only [hget, State.setSlot_commitQueue, State.setSlot_commit]
  all_goals grind

/-- A FREE slot becomes a region's FILLING slot: the region has none, and does not hold S+C (R22, R23). -/
theorem State.giveFilling_keepsPool {s : State} {k : Fin 12} {r : Fin 64} (hk : s.slots[k].state = .free)
    (hf : s.fillingLink r = none) (hb : s.holdsSealedAndCommitting r = false) (off : Nat) (v : Word) :
    s.KeepsPool (s.giveFilling k r off v) := by
  have hget := fun j => s.slots_setSlot_get k j { state := .filling, region := some r, words := [(off, v)] }
  have hnone := State.slotIn_eq_none.1 hf
  have hboth := @State.holdsSealedAndCommitting_eq_false s r hb
  refine ⟨fun ⟨hq, hn, hc⟩ => ⟨⟨fun j => ?_, hn, fun c => ?_⟩, fun ⟨hone, hthree, hempty, hcommit⟩ =>
    ⟨fun i j => ?_, fun h i j => ?_, fun j => ?_, fun j => ?_⟩⟩, fun h => s.setSlot_wordsRising k h rfl⟩
  all_goals simp only [State.giveFilling, hget, State.setSlot_commitQueue, State.setSlot_commit]
  all_goals grind

/-- A FREE slot, or a region's FILLING one, becomes the region's SEALED slot and joins the Commit Queue (R30, R32, R62). -/
theorem State.sealAs_keepsPool {s : State} {k : Fin 12} {r : Fin 64} {ws : List (Nat × Word)}
    (hk : s.slots[k].state = .free ∧ s.fillingLink r = none ∨ s.fillingLink r = some k) (hl : s.sealedLink r = none)
    (hw : s.wordsRising → cellsRising ws = true) : s.KeepsPool (s.sealAs k r ws) := by
  have hget := fun j => s.slots_setSlot_get k j { state := .sealed, region := some r, words := ws }
  have hnone := State.slotIn_eq_none.1 hl
  have hstate : s.slots[k].state = .free ∨ s.slots[k].state = .filling :=
    hk.imp And.left fun h => (State.slotIn_eq_some h).1
  have hfilling : s.slotsExact → ∀ j : Fin 12, s.slots[j].state = .filling → s.slots[j].region = some r → j = k := by
    rintro ⟨hone, -⟩ j hj hr
    rcases hk with ⟨-, h⟩ | h
    · exact absurd hr (State.slotIn_eq_none.1 h j hj)
    · obtain ⟨hks, hkr⟩ := State.slotIn_eq_some h
      exact hone j k (by rw [hj]; decide) (hj.trans hks.symm) (hr.trans hkr.symm)
  obtain ⟨l, h⟩ := State.noteDeferral_only
    { s.setSlot k { state := .sealed, region := some r, words := ws } with commitQueue := s.commitQueue ++ [k] } r
  rw [State.sealAs, h]
  refine ⟨fun ⟨hq, hn, hc⟩ => ⟨⟨fun j => ?_, ?_, fun c => ?_⟩, fun hs => ?_⟩, fun h => s.setSlot_wordsRising k h (hw h)⟩
  · simp only [hget, List.mem_append, List.mem_singleton]
    grind
  · have hnot : k ∉ s.commitQueue := by grind
    simpa [List.nodup_append] using ⟨hn, fun j hj => by grind⟩
  · simp only [hget, State.setSlot_commit]
    grind
  · have hfilling := hfilling hs
    obtain ⟨hone, hthree, hempty, hcommit⟩ := hs
    refine ⟨fun i j => ?_, fun h i j => ?_, fun j => ?_, fun j => ?_⟩
    all_goals simp only [hget, State.setSlot_commit]
    all_goals grind

/-- Slots are freed: what stays of the Commit Queue and of the commit must fit the slots that stay. -/
theorem State.KeepsPool.of_freed {s t : State}
    (hfreed : ∀ j : Fin 12, t.slots[j] = s.slots[j] ∨ t.slots[j] = Slot.empty)
    (hqueue : s.queueExact → t.queueExact)
    (hcommitting : s.slotsExact → ∀ k : Fin 12, t.slots[k].state = .committing → t.commit.map CommitRec.slot = some k) :
    s.KeepsPool t := by
  have hes : Slot.empty.state = .free := rfl
  have hew : cellsRising Slot.empty.words = true := rfl
  refine ⟨fun hq => ⟨hqueue hq, fun hs => ?_⟩, fun hw j => ?_⟩
  · have hcommitting := hcommitting hs
    obtain ⟨hone, hthree, hempty, -⟩ := hs
    refine ⟨fun i j => ?_, fun h i j => ?_, fun j => ?_, hcommitting⟩
    all_goals grind
  · rcases hfreed j with h | h
    · rw [h]; exact hw j
    · rw [h]; exact hew

/-- A reset leaves an empty pool. -/
theorem State.KeepsPool.of_emptied {s t : State} (hs : t.slots = Vector.replicate 12 Slot.empty)
    (hq : t.commitQueue = []) (hc : t.commit = none) : s.KeepsPool t := by
  have hget : ∀ j : Fin 12, t.slots[j] = Slot.empty := fun j => by simp [hs]
  refine .of_freed (fun j => .inr (hget j)) (fun _ => ⟨fun k => ?_, ?_, ?_⟩) fun _ k hk => ?_
  · rw [hq, hget]; simp [Slot.empty]
  · rw [hq]; exact List.nodup_nil
  · simp [hc]
  · rw [hget] at hk; cases hk

/-- A FILLING slot is freed (R31, R37). -/
theorem State.freeFilling_keepsPool {s : State} {k : Fin 12} (hk : s.slots[k].state = .filling) :
    s.KeepsPool (s.setSlot k Slot.empty) := by
  have hget := fun j => s.slots_setSlot_get k j Slot.empty
  have hes : Slot.empty.state = .free := rfl
  refine .of_freed (fun j => by grind) (fun ⟨hq, hn, hc⟩ => ⟨fun j => ?_, hn, fun c => ?_⟩)
    fun ⟨_, _, _, hcommit⟩ j => ?_
  all_goals simp only [hget, State.setSlot_commitQueue, State.setSlot_commit]
  all_goals grind

/-- The slot of the commit in progress is freed at the commit's end (R83). -/
theorem State.freeCommitting_keepsPool {s : State} {c : CommitRec} (hc : s.commit = some c) :
    s.KeepsPool { s.setSlot c.slot Slot.empty with commit := none } := by
  have hget := fun j => s.slots_setSlot_get c.slot j Slot.empty
  have hes : Slot.empty.state = .free := rfl
  refine .of_freed (fun j => by grind) (fun ⟨hq, hn, hcm⟩ => ⟨fun j => ?_, hn, fun d hd => ?_⟩)
    fun ⟨_, _, _, hcommit⟩ j => ?_
  · have := hcm c hc
    simp only [hget, State.setSlot_commitQueue]
    grind
  · cases hd
  · simp only [hget]
    grind

/-- A slot of the Commit Queue becomes the slot of the commit that starts (R74). -/
theorem State.commitSlot_keepsPool {s : State} {k : Fin 12} {x : Slot} {c : CommitRec} (hk : k ∈ s.commitQueue)
    (hidle : s.commit = none) (hstate : x.state = .committing) (hregion : x.region = s.slots[k].region)
    (hw : x.words = s.slots[k].words) (hc : c.slot = k) :
    s.KeepsPool { s.setSlot k x with commitQueue := s.commitQueue.filter fun j => j != k, commit := some c } := by
  have hget := fun j => s.slots_setSlot_get k j x
  refine ⟨fun ⟨hq, hn, _⟩ => ⟨⟨fun j => ?_, hn.filter _, fun d hd => ?_⟩, fun ⟨hone, hthree, hempty, hcommit⟩ => ?_⟩,
    fun h => s.setSlot_wordsRising k h (hw ▸ h k)⟩
  · simp only [hget, List.mem_filter, bne_iff_ne]
    grind
  · simp only [hget]
    grind
  · have hks := (hq k).1 hk
    refine ⟨fun i j => ?_, fun h i j => ?_, fun j => ?_, fun j => ?_⟩
    all_goals simp only [hget]
    all_goals grind

/-- The commit moves on to its next write with the same slot (R76). -/
theorem State.KeepsPool.of_commitSlot {s : State} {c d : CommitRec} (hc : s.commit = some c) (hd : d.slot = c.slot) :
    s.KeepsPool { s with commit := some d } := by
  refine ⟨fun ⟨hq, hn, hcm⟩ => ⟨⟨hq, hn, fun e he => ?_⟩, fun ⟨hone, hthree, hempty, hcommit⟩ =>
    ⟨hone, hthree, hempty, fun j hj => ?_⟩⟩, id⟩
  · obtain rfl := Option.some.inj he
    simpa only [hd] using hcm c hc
  · rw [Option.map_some, hd, ← hcommit j hj, hc, Option.map_some]

/-! ## The Stage Pool -/

@[simp] theorem State.endAccess_pool (s : State) (p : Port) (d : Option Word) : (s.endAccess p d).pool = s.pool := by
  simp [State.pool]

@[simp] theorem State.hold_pool (s : State) (p : Port) (c : WaitCause) (k : AccessClass) :
    (s.hold p c k).pool = s.pool := by
  simp [State.pool]

@[simp] theorem State.raise_pool (s : State) (d : FaultDetail) : (s.raise d).pool = s.pool := by
  obtain ⟨l, a, h⟩ := s.raise_only d
  rw [h]; rfl

@[simp] theorem State.waitForSlot_pool (s : State) (p : Port) (r : Fin 64) (k : StageAsk) (v : Word) :
    (s.waitForSlot p r k v).pool = s.pool := by
  obtain ⟨w, a, b, h⟩ := s.waitForSlot_only p r k v
  rw [h]; rfl

@[simp] theorem State.enqueue_pool (s : State) (i : Item) : (s.enqueue i).pool = s.pool := by
  obtain ⟨l, h⟩ := s.enqueue_only i
  rw [h]; rfl

/-- A FILLING slot takes an offset's word (R21). -/
theorem State.putWord_keepsPool {s : State} {r : Fin 64} {f : Fin 12} (hf : s.fillingLink r = some f) (off : Nat)
    (v : Word) : s.KeepsPool (s.setSlot f { s.slots[f] with words := cellsPut s.slots[f].words off v }) := by
  obtain ⟨hstate, -⟩ := State.slotIn_eq_some hf
  exact State.setWords_keepsPool (by rw [hstate]; decide) rfl rfl fun hw => cellsRising_put off v (hw f)

/-- A region's FILLING slot is sealed with its words (R30). -/
theorem State.sealFilling_keepsPool {s : State} {r : Fin 64} {f : Fin 12} (hf : s.fillingLink r = some f)
    (hl : s.sealedLink r = none) : s.KeepsPool (s.sealAs f r s.slots[f].words) :=
  State.sealAs_keepsPool (.inr hf) hl fun hw => hw f

/-- A slot given to a waiting write that is eligible (R24). -/
theorem State.giveSlot_keepsPool {s : State} {k : Fin 12} {r : Fin 64} {ask : StageAsk} (hk : s.slots[k].state = .free)
    (hask : s.stageCause r ask = .slot) (v : Word) : s.KeepsPool (s.giveSlot k r ask v) := by
  unfold State.giveSlot
  split
  · rename_i off hf
    exact State.giveFilling_keepsPool hk hf (by simpa [State.stageCause] using hask) off v
  · exact State.putWord_keepsPool ‹_› _ v
  · exact State.sealAs_keepsPool (.inl ⟨hk, ‹_›⟩) ‹_› fun _ => rfl
  · exact State.sealFilling_keepsPool ‹_› ‹_›
  · exact .refl s

theorem State.serveEntry_keepsPool (s : State) (e : WaitEntry) : s.KeepsPool (s.serveEntry e) := by
  unfold State.serveEntry
  split
  · rename_i k hcause hfree
    refine State.KeepsPool.then_pool ?_ (State.endAccess_pool _ _ _)
    refine State.KeepsPool.after_pool (State.giveSlot_keepsPool ?_ ?_ _) rfl
    · exact (State.freeSlot_eq_some.1 hfree).1
    · exact (State.stageCause_of_slots (s := s) rfl _ _).trans hcause
  · exact .of_pool (by simp)

theorem serveList_keepsPool (es : List WaitEntry) (s : State) : s.KeepsPool (serveList es s) := by
  induction es generalizing s with
  | nil => exact .refl s
  | cons e rest ih => exact (s.serveEntry_keepsPool e).trans (ih (s.serveEntry e))

/-- A region's FILLING slot is merged into its SEALED one and freed (R31). -/
theorem State.coalesce_keepsPool {s : State} {r : Fin 64} {f k : Fin 12} (hf : s.fillingLink r = some f)
    (hk : s.sealedLink r = some k) :
    s.KeepsPool ((s.setSlot k { s.slots[k] with words := mergeWords s.slots[k].words s.slots[f].words }).setSlot f
      Slot.empty) := by
  obtain ⟨hfs, -⟩ := State.slotIn_eq_some hf
  obtain ⟨hks, -⟩ := State.slotIn_eq_some hk
  have hkf : k ≠ f := by
    rintro rfl
    exact absurd (hfs.symm.trans hks) (by decide)
  have hmerged : s.KeepsPool (s.setSlot k { s.slots[k] with words := mergeWords s.slots[k].words s.slots[f].words }) :=
    State.setWords_keepsPool (by rw [hks]; decide) rfl rfl fun hw => cellsRising_mergeWords _ (hw k)
  refine hmerged.trans (State.freeFilling_keepsPool ?_)
  rw [State.slots_setSlot_get, if_neg hkf, hfs]

theorem State.ownerSeal_keepsPool (s : State) (p : Port) (r : Fin 64) : s.KeepsPool (s.ownerSeal p r) := by
  unfold State.ownerSeal
  split
  · exact (State.sealFilling_keepsPool ‹_› ‹_›).then_pool (by simp)
  · exact ((State.coalesce_keepsPool ‹_› ‹_›).then_pool (State.endAccess_pool _ p none)).trans (serveList_keepsPool _ _)
  · exact .of_pool (by simp)
  · split
    · rename_i k hfree
      have hsealed : s.KeepsPool (s.sealAs k r []) :=
        State.sealAs_keepsPool (.inl ⟨(State.freeSlot_eq_some.1 hfree).1, ‹_›⟩) ‹_› fun _ => rfl
      exact hsealed.then_pool (by simp)
    · exact .of_pool (by simp)

theorem State.ownerBodyWrite_keepsPool (s : State) (p : Port) (r : Fin 64) (off : Nat) (v : Word) :
    s.KeepsPool (s.ownerBodyWrite p r off v) := by
  unfold State.ownerBodyWrite
  split
  · exact (State.putWord_keepsPool ‹_› off v).then_pool (State.endAccess_pool _ p none)
  · split
    · exact .of_pool (by simp)
    · split
      · rename_i hboth _ k hfree
        exact (State.giveFilling_keepsPool (State.freeSlot_eq_some.1 hfree).1 ‹_› (by simpa using hboth) off v).then_pool
          (by simp)
      · exact .of_pool (by simp)

theorem State.discardFilling_keepsPool (s : State) (r : Fin 64) : s.KeepsPool (s.discardFilling r) := by
  unfold State.discardFilling
  split
  · rename_i hf _
    exact (State.freeFilling_keepsPool (State.slotIn_eq_some hf).1).then_pool (by simp)
  · exact .refl s

theorem State.discardAllFilling_keepsPool (s : State) : s.KeepsPool s.discardAllFilling := by
  unfold State.discardAllFilling
  generalize List.finRange 64 = rs
  induction rs generalizing s with
  | nil => exact .refl s
  | cons r rest ih => exact (s.discardFilling_keepsPool r).trans (ih (s.discardFilling r))

/-! ## The Access Classifier -/

theorem State.regionAccess_keepsPool (s : State) (p : Port) (a : Access) (r : Fin 64) (x : Region) :
    s.KeepsPool (s.regionAccess p a r x) := by
  unfold State.regionAccess
  dsimp only
  split
  · split
    · split
      · exact s.ownerSeal_keepsPool p r
      · exact s.ownerBodyWrite_keepsPool p r _ _
    · split
      · obtain ⟨pa, pb, h⟩ := s.ownerHeaderRead_only p r
        rw [h]; exact .of_pool rfl
      · obtain ⟨pa, pb, h⟩ := s.ownerBodyRead_only p r (x.entry.offset a.addr)
        rw [h]; exact .of_pool rfl
  · split
    · obtain ⟨pa, pb, g, al, h⟩ := s.refuse_only p a.addr a.value
      rw [h]; exact .of_pool rfl
    · split
      · obtain ⟨l, sa, sb, pa, pb, h⟩ := s.readerHeaderRead_only p r
        rw [h]; exact .of_pool rfl
      · exact .of_pool (State.hold_pool _ _ _ _)

theorem State.statusAccess_pool (s : State) (p : Port) (a : Access) : (s.statusAccess p a).pool = s.pool := by
  unfold State.statusAccess
  split
  · obtain ⟨pa, pb, h⟩ := s.statusRead_only p (statusWord a.addr)
    rw [h]; rfl
  · split
    · exact State.hold_pool _ _ _ _
    · obtain ⟨pa, pb, g, al, h⟩ := s.statusWrite_only p a.addr a.value
      rw [h]; rfl

theorem State.controlAccess_pool (s : State) (p : Port) (a : Access) : (s.controlAccess p a).pool = s.pool := by
  have guarded :
      (if protectedWrite p a.dir a.addr then s.refuse p a.addr a.value else s.passToMemory p).pool = s.pool := by
    split
    · obtain ⟨pa, pb, g, al, h⟩ := s.refuse_only p a.addr a.value
      rw [h]; rfl
    · exact State.hold_pool _ _ _ _
  unfold State.controlAccess
  cases s.part with
  | active | draining => exact guarded
  | loading | bypass | pfail => exact State.hold_pool _ _ _ _

theorem State.lowAccess_keepsPool (s : State) (p : Port) (a : Access) : s.KeepsPool (s.lowAccess p a) := by
  have waits (c : WaitCause) (k : AccessClass) : s.KeepsPool (s.hold p c k) := .of_pool (State.hold_pool _ _ _ _)
  unfold State.lowAccess
  cases s.part with
  | loading | bypass | pfail => exact waits _ _
  | draining => dsimp only; split <;> exact waits _ _
  | active =>
    dsimp only
    split
    · split
      · exact s.regionAccess_keepsPool _ _ _ _
      · exact waits _ _
    · exact waits _ _

theorem State.dispatch_keepsPool (s : State) (p : Port) (a : Access) : s.KeepsPool (s.dispatch p a) := by
  unfold State.dispatch
  split
  · obtain ⟨pa, pb, g, al, h⟩ := s.endInPfail_only p a
    rw [h]; exact .of_pool rfl
  · split
    · exact .of_pool (s.statusAccess_pool p a)
    · split
      · exact .of_pool (s.controlAccess_pool p a)
      · exact s.lowAccess_keepsPool p a

theorem State.arrive_keepsPool (s : State) (p : Port) (d : Dir) (a : Addr) (v : Word) :
    s.KeepsPool (s.arrive p d a v) :=
  (State.dispatch_keepsPool _ p _).after_pool (by simp [State.pool])

theorem State.offer_keepsPool (s : State) (p : Port) (d : Dir) (a : Addr) (v : Word) : s.KeepsPool (s.offer p d a v) := by
  have strobed : (s.strobe p).pool = s.pool := by simp [State.pool]
  unfold State.offer
  split
  · exact .refl s
  · split
    · refine State.KeepsPool.after_pool (.of_pool ?_) strobed
      unfold State.record
      split
      · rfl
      · simp [State.pool]
    · split
      · exact .of_pool strobed
      · exact (State.arrive_keepsPool _ p d a v).after_pool strobed

theorem State.takeAfresh_keepsPool (s : State) (p : Port) : s.KeepsPool (s.takeAfresh p) := by
  unfold State.takeAfresh
  split
  · exact .ite (s.dispatch_keepsPool p _)
  · exact .refl s

theorem State.releaseLoad_keepsPool (s : State) : s.KeepsPool s.releaseLoad := by
  have both (t : State) (p q : Port) (h : t.pool = s.pool) : s.KeepsPool ((t.takeAfresh p).takeAfresh q) :=
    ((t.takeAfresh_keepsPool p).trans (State.takeAfresh_keepsPool _ q)).after_pool h
  unfold State.releaseLoad
  dsimp only
  split
  · split
    · exact both _ .a .b rfl
    · exact both _ .b .a rfl
  · exact both _ .a .b rfl

/-! ## The Table Loader -/

theorem State.shadowReadDone_pool (s : State) (w : Word) : (s.shadowReadDone w).pool = s.pool := by
  unfold State.shadowReadDone State.endShadowRead
  dsimp only
  split
  · split <;> rfl
  · rfl

theorem State.tornScanDone_pool (s : State) (i : Fin 64) (rest : List (Fin 64)) (found : List Found) (w : Word) :
    (s.tornScanDone i rest found w).pool = s.pool := by
  unfold State.tornScanDone
  dsimp only
  split
  · exact (State.enqueue_pool _ _).trans (State.raise_pool _ _)
  · rfl

theorem State.returnToOrigin_pool (s : State) : s.returnToOrigin.pool = s.pool := by
  unfold State.returnToOrigin
  split <;> rfl

theorem State.loaderDone_keepsPool (s : State) (w : Word) : s.KeepsPool (s.loaderDone w) := by
  unfold State.loaderDone State.loaderAdvance
  split
  · exact .refl s
  · split
    · exact .refl s
    · exact .of_pool rfl
    · unfold State.startUpDone
      split <;> exact .of_pool rfl
    · exact .of_pool (s.shadowReadDone_pool w)
    · exact .of_pool (s.tornScanDone_pool _ _ _ _)
    · exact (State.releaseLoad_keepsPool _).after_pool rfl
    · exact (State.releaseLoad_keepsPool _).after_pool ((State.returnToOrigin_pool _).trans (s.raise_pool _))
    · exact (State.releaseLoad_keepsPool _).after_pool rfl

theorem State.withdrawWaiting_pool (s : State) : s.withdrawWaiting.pool = s.pool := by
  obtain ⟨w, a, b, h⟩ := s.withdrawWaiting_only
  rw [h]; rfl

theorem State.commitWaitToLoad_pool (s : State) (p : Port) : (s.commitWaitToLoad p).pool = s.pool := by
  obtain ⟨a, b, h⟩ := s.commitWaitToLoad_only p
  rw [h]; rfl

theorem State.enterDraining_keepsPool (s : State) (c : Command) : s.KeepsPool (s.enterDraining c) := by
  refine (State.discardAllFilling_keepsPool _).after_pool ?_
  exact ((State.commitWaitToLoad_pool _ .b).trans (State.commitWaitToLoad_pool _ .a)).trans
    (State.withdrawWaiting_pool _)

theorem State.takeCommand_keepsPool (s : State) (c : Command) (waited : Bool) :
    s.KeepsPool (s.takeCommand c waited) := by
  have busy : s.KeepsPool s.raiseBusy := .of_pool (s.raise_pool _)
  unfold State.takeCommand
  split
  · exact busy
  · split
    · exact .of_pool rfl
    · exact .refl s
    · exact s.enterDraining_keepsPool _
    · exact busy
    · exact busy
    · exact busy

theorem State.hostDone_keepsPool (s : State) (p : Port) (c : Cycle) : s.KeepsPool (s.hostDone p c) := by
  have answered (d : Option Word) : (if s.part = .pfail then s else s.endAccess p d).pool = s.pool := by
    split
    · rfl
    · simp
  unfold State.hostDone
  dsimp only
  split
  · exact (State.takeCommand_keepsPool _ _ _).after_pool (answered _)
  · exact .of_pool (answered _)

theorem State.endDrain_pool (s : State) : s.endDrain.pool = s.pool := by
  unfold State.endDrain
  dsimp only
  split <;> rfl

/-! ## The Commit Engine -/

/-- The slot selected is one of the Commit Queue, and the engine is IDLE (R72, R73). -/
theorem State.selected_eq_some {s : State} {k : Fin 12} (h : s.selected = some k) :
    k ∈ s.commitQueue ∧ s.commit = none := by
  unfold State.selected at h
  split at h
  · exact ⟨List.mem_of_find?_eq_some h, ‹_›⟩
  · exact ⟨List.mem_of_mem_head? h, ‹_›⟩
  · cases h

theorem State.updRegion_pool (s : State) (r : Fin 64) (f : Region → Region) : (s.updRegion r f).pool = s.pool := by
  simp [State.pool]

theorem State.breakSession_pool (s : State) (r : Fin 64) : (s.breakSession r).pool = s.pool := by
  obtain ⟨a, b, h⟩ := s.breakSession_only r
  rw [h]; rfl

theorem State.withdrawReader_pool (s : State) (p : Port) (r : Fin 64) : (s.withdrawReader p r).pool = s.pool := by
  obtain ⟨a, b, h⟩ := s.withdrawReader_only p r
  rw [h]; rfl

theorem State.holdScan_pool (s : State) (r : Fin 64) : (s.holdScan r).pool = s.pool := by
  obtain ⟨n, h⟩ := s.holdScan_only r
  rw [h]; rfl

theorem State.withdrawTorn_pool (s : State) (b : Addr) : (s.withdrawTorn b).pool = s.pool := by
  obtain ⟨l, h⟩ := s.withdrawTorn_only b
  rw [h]; rfl

theorem State.startCommit_keepsPool {s : State} {k : Fin 12} (hk : k ∈ s.commitQueue) (hidle : s.commit = none)
    (r : Fin 64) (x : Region) : s.KeepsPool (s.startCommit k r x) := by
  unfold State.startCommit
  refine (State.commitSlot_keepsPool (x := { s.slots[k] with state := .committing }) hk hidle rfl rfl rfl
    (c := { slot := k, region := r, base := x.entry.base, oldGen := x.gen, step := .opening,
            next := (s.slots[k].words.head?).map Prod.fst }) rfl).then_pool ?_
  exact (State.withdrawTorn_pool _ _).trans ((State.holdScan_pool _ _).trans ((State.withdrawReader_pool _ _ _).trans
    ((State.breakSession_pool _ _).trans (State.updRegion_pool _ _ _))))

theorem State.startSelected_keepsPool (s : State) : s.KeepsPool s.startSelected := by
  unfold State.startSelected
  split
  · obtain ⟨hk, hidle⟩ := State.selected_eq_some ‹_›
    split
    · split
      · exact State.startCommit_keepsPool hk hidle _ _
      · exact .refl s
    · exact .refl s
  · exact .refl s

theorem State.releaseReader_pool (s : State) (p : Port) (r : Fin 64) : (s.releaseReader p r).pool = s.pool := by
  obtain ⟨l, a, b, x, y, h⟩ := s.releaseReader_only p r
  rw [h]; rfl

theorem State.deadlineCompletion_pool (s : State) (r : Fin 64) : (s.deadlineCompletion r).pool = s.pool := by
  obtain ⟨l, g, h⟩ := s.deadlineCompletion_only r
  rw [h]; rfl

theorem State.diagCompletion_pool (s : State) (r : Fin 64) : (s.diagCompletion r).pool = s.pool := by
  obtain ⟨q, n, h⟩ := s.diagCompletion_only r
  rw [h]; rfl

theorem State.tellCompletion_keepsPool (s : State) (r : Fin 64) : s.KeepsPool (s.tellCompletion r) :=
  (serveList_keepsPool s.waiting s).then_pool ((State.diagCompletion_pool _ r).trans
    ((State.deadlineCompletion_pool _ r).trans ((State.releaseReader_pool _ .b r).trans (State.releaseReader_pool _ .a r))))

theorem State.finishCommit_keepsPool {s : State} {c : CommitRec} (hc : s.commit = some c) :
    s.KeepsPool (s.finishCommit c) := by
  have marked := s.updRegion_pool c.region fun y => { y with gen := c.oldGen + 1, header := .clean, stale := false }
  have freed := State.KeepsPool.after_pool (State.freeCommitting_keepsPool ((State.updRegion_commit ..).trans hc)) marked
  unfold State.finishCommit
  dsimp only
  split
  · exact freed
  · exact freed.trans (State.tellCompletion_keepsPool _ _)

theorem State.commitAdvance_slot (s : State) (c : CommitRec) : (s.commitAdvance c).slot = c.slot := by
  unfold State.commitAdvance
  split
  · rfl
  · rfl
  · split <;> rfl
  · rfl
  · rfl

theorem State.commitWriteDone_keepsPool (s : State) : s.KeepsPool s.commitWriteDone := by
  unfold State.commitWriteDone
  split
  · split
    · exact State.finishCommit_keepsPool ‹_›
    · exact .of_commitSlot ‹_› (s.commitAdvance_slot _)
  · exact .refl s

/-! ## The memory port -/

theorem State.completeCycle_keepsPool (s : State) (c : Cycle) : s.KeepsPool (s.completeCycle c) := by
  unfold State.completeCycle
  dsimp only
  refine State.KeepsPool.after_pool (t := { s with mem := s.memCarried, cycle := none }) ?_ rfl
  split
  · exact State.hostDone_keepsPool _ _ c
  · exact State.commitWriteDone_keepsPool _
  · exact State.loaderDone_keepsPool _ _
  · obtain ⟨l, h⟩ := State.writerAdvance_only { s with mem := s.memCarried, cycle := none } c.data
    rw [h]; exact .of_pool rfl
  · obtain ⟨n, g, a, h⟩ := State.diagDone_only { s with mem := s.memCarried, cycle := none } c.data
    rw [h]; exact .of_pool rfl

/-! ## The lines -/

/-- At a power failure the slot of the commit in progress stays, and every other slot is freed (R159, R160). -/
theorem State.freeStaged_keepsPool (s : State) : s.KeepsPool s.freeStaged := by
  have hget : ∀ j : Fin 12,
      s.freeStaged.slots[j] = if s.slots[j].state = .committing then s.slots[j] else Slot.empty := fun j => by
    simp [State.freeStaged]
  have hes : Slot.empty.state = .free := rfl
  refine .of_freed (fun j => by grind) (fun ⟨hq, hn, hc⟩ => ⟨fun j => ?_, List.nodup_nil, fun c h => ?_⟩)
    fun ⟨_, _, _, hcommit⟩ j => ?_
  · have hnil : s.freeStaged.commitQueue = [] := rfl
    rw [hget, hnil]
    grind
  · rw [hget, if_pos (hc c h), hc c h]
  · rw [hget]
    exact fun h => hcommit j (by grind)

theorem State.endByPfail_pool (s : State) (p : Port) : (s.endByPfail p).pool = s.pool := by
  obtain ⟨a, b, h⟩ := s.endByPfail_only p
  rw [h]; rfl

theorem State.dropQueue_pool (s : State) : s.dropQueue.pool = s.pool := rfl

theorem State.stopAlert_pool (s : State) : s.stopAlert.pool = s.pool := rfl

theorem State.mapRegions_pool (s : State) (f : Region → Region) : (s.mapRegions f).pool = s.pool := rfl

theorem State.enterPfail_keepsPool (s : State) : s.KeepsPool s.enterPfail := by
  have ended : ((s.endByPfail .a).endByPfail .b).pool = s.pool :=
    (State.endByPfail_pool _ .b).trans (State.endByPfail_pool _ .a)
  have freed : s.KeepsPool ((s.endByPfail .a).endByPfail .b).freeStaged.dropQueue :=
    ((State.freeStaged_keepsPool _).after_pool ended).then_pool (State.dropQueue_pool _)
  exact freed.then_pool ((State.stopAlert_pool _).trans (State.mapRegions_pool _ _))

theorem State.takeFall_keepsPool (s : State) : s.KeepsPool s.takeFall := by
  unfold State.takeFall
  split
  · exact .refl s
  · exact s.enterPfail_keepsPool

theorem State.takeDueFall_keepsPool (s : State) : s.KeepsPool s.takeDueFall := .ite s.takeFall_keepsPool

theorem State.completeIf_keepsPool (s : State) (atHand : Bool) : s.KeepsPool (s.completeIf atHand) := by
  refine .ite (s.takeDueFall_keepsPool.trans ?_)
  unfold State.complete
  dsimp only
  split
  · exact State.completeCycle_keepsPool _ _
  · exact .refl _

theorem State.resetLow_keepsPool (s : State) (periods : Nat) : s.KeepsPool (s.resetLow periods) := by
  unfold State.resetLow
  split
  · exact .refl s
  · split
    · exact .of_emptied rfl rfl rfl
    · exact .ite (s.takeDueFall_keepsPool.then_pool rfl)

theorem State.takeRecorded_keepsPool (s : State) (p : Port) (q : Option Recorded) : s.KeepsPool (s.takeRecorded p q) := by
  unfold State.takeRecorded
  split
  · exact s.arrive_keepsPool p _ _ _
  · exact .refl s

/-- The release leaves an empty pool to the accesses that were recorded. -/
theorem State.release_keepsPool (s : State) (pfailLow : Bool) : s.KeepsPool (s.release pfailLow) := by
  have both (t : State) (p q : Port) (ra rb : Option Recorded) (h : t.pool = (s.released pfailLow).pool) :
      s.KeepsPool ((t.takeRecorded p ra).takeRecorded q rb) :=
    ((State.KeepsPool.of_emptied rfl rfl rfl).then_pool h).trans
      ((t.takeRecorded_keepsPool p ra).trans (State.takeRecorded_keepsPool _ q rb))
  unfold State.release
  dsimp only
  split
  · split
    · exact both _ .a .b _ _ rfl
    · exact both _ .b .a _ _ rfl
  · exact both _ .a .b _ _ rfl

theorem State.endShortPulse_keepsPool (s : State) (pfailLow : Bool) : s.KeepsPool (s.endShortPulse pfailLow) := by
  unfold State.endShortPulse
  dsimp only
  split
  · exact (State.takeFall_keepsPool _).after_pool rfl
  · exact .of_pool rfl

theorem State.pfailFalls_keepsPool (s : State) : s.KeepsPool s.pfailFalls := by
  unfold State.pfailFalls
  dsimp only
  split
  · exact (State.takeFall_keepsPool _).after_pool rfl
  · exact .of_pool rfl

theorem State.loseSupply_keepsPool (s : State) : s.KeepsPool s.loseSupply := by
  unfold State.loseSupply
  dsimp only
  split
  · split <;> exact .of_emptied rfl rfl rfl
  · exact .of_emptied rfl rfl rfl

/-! ## Every command and every step -/

theorem exec_keepsPool (c : Instr) (s : State) : ∃ t, exec c s = .next t ∧ s.KeepsPool t := by
  cases c with
  | accessArrival p oe we a v =>
    refine ⟨_, rfl, ?_⟩
    split
    · exact s.offer_keepsPool _ _ _ _
    · split
      · exact s.offer_keepsPool _ _ _ _
      · exact .ite (.of_pool (by simp [State.pool]))
  | alertMaskWrite v | acknowledge v | alertHoldoffWrite v | faultConsumerWrite v | timeLowRead p =>
    exact ⟨_, rfl, s.offer_keepsPool _ _ _ _⟩
  | statusBlockWriteRefused p w v =>
    refine ⟨_, rfl, ?_⟩
    split
    · exact .refl s
    · exact s.offer_keepsPool _ _ _ _
  | loadCommand | unloadCommand | startUpReadsQualify | memoryCycleCompletion | commitCompletion | scanEnd | faultRecordEnd
  | writeBackEnd | shadowReadEnd | loadSuccess | loadFailure | unloadEnd =>
    exact ⟨_, rfl, s.completeIf_keepsPool _⟩
  | resetNFalling n => exact ⟨_, rfl, s.resetLow_keepsPool n⟩
  | shortResetPulseEnd low => exact ⟨_, rfl, .ite (s.endShortPulse_keepsPool low)⟩
  | resetNRelease low =>
    exact ⟨_, rfl, (State.KeepsPool.ite (s.resetLow_keepsPool _)).trans (.ite (State.release_keepsPool _ low))⟩
  | pfailNFalling => exact ⟨_, rfl, .ite s.pfailFalls_keepsPool⟩
  | holdTimerExpiry r =>
    obtain ⟨l, a, b, h⟩ := s.expireHold_only r
    exact ⟨_, rfl, .ite (by rw [h]; exact .of_pool rfl)⟩
  | deadlineExpiry r =>
    obtain ⟨l, g, a, q, h⟩ := s.expireDeadline_only r
    exact ⟨_, rfl, .ite (by rw [h]; exact .of_pool rfl)⟩
  | waitLimitExpiry p =>
    refine ⟨_, rfl, .ite ?_⟩
    split
    · split
      · rename_i a _ _ c _
        obtain ⟨w, pa, pb, g, al, h⟩ := s.expireWait_only p a c
        rw [h]; exact .of_pool rfl
      · exact .refl s
    · exact .refl s
  | holdoffExpiry => exact ⟨_, rfl, .ite (.of_pool rfl)⟩
  | arbiterGrant =>
    obtain ⟨c, k, a, b, h⟩ := s.grant_only
    exact ⟨_, rfl, .ite (by rw [h]; exact .of_pool rfl)⟩
  | commitStart => exact ⟨_, rfl, .ite s.startSelected_keepsPool⟩
  | scanStart =>
    obtain ⟨q, c, h⟩ := s.beginScan_only
    exact ⟨_, rfl, .ite (by rw [h]; exact .of_pool rfl)⟩
  | drainEnd => exact ⟨_, rfl, .ite (.of_pool s.endDrain_pool)⟩
  | lossOfSupply => exact ⟨_, rfl, .ite s.loseSupply_keepsPool⟩

theorem step_keepsPool (s : State) : ∃ t, step s = .next t ∧ s.KeepsPool t := by
  have taken (c : Instr) (t : State) (ht : t.pool = s.pool) : ∃ u, exec c t = .next u ∧ s.KeepsPool u := by
    obtain ⟨u, hu, h⟩ := exec_keepsPool c t
    exact ⟨u, hu, h.after_pool ht⟩
  unfold step
  split
  · exact taken _ _ rfl
  · unfold State.idleEvent
    cases s.dueEvents with
    | nil =>
      refine ⟨s.tick, rfl, .of_pool ?_⟩
      unfold State.tick
      split <;> rfl
    | cons c rest =>
      cases rest with
      | nil => exact taken _ _ rfl
      | cons d rest => exact taken _ _ rfl

/-- Settles O9: a step takes one command, and every command is a sequence of the moves. -/
theorem stepKeepsCommitQueueExact : Obligations.StepKeepsCommitQueueExact := by
  intro s t hstep
  obtain ⟨u, hu, h⟩ := step_keepsPool s
  obtain rfl : u = t := Host.Outcome.next.inj (hu.symm.trans hstep)
  exact h

/-! ## The reset state -/

/-- Every slot is FREE at reset (R19). -/
theorem State.reset_slot (k : Fin 12) : State.reset.slots[k] = Slot.empty := by simp [State.reset]

/-- Settles O4: every block is at its reset value, and every slot is empty. -/
theorem resetStateIsSound : Obligations.ResetStateIsSound := by
  have hline : State.reset.alertExact := by unfold State.alertExact; decide
  have htable : tableSound [] := ⟨Nat.zero_le _, List.nodup_nil⟩
  have hlog : State.reset.logBounded := by unfold State.logBounded; decide
  refine ⟨rfl, hline, ⟨htable, htable⟩, hlog, ⟨fun k => ?_, List.nodup_nil, by simp [State.reset]⟩, ?_, fun k => ?_⟩
  · rw [State.reset_slot]
    simp [State.reset, Slot.empty]
  · refine ⟨fun j k hj => ?_, fun i j k hi => ?_, fun k _ => State.reset_slot k, fun k hk => ?_⟩
    · rw [State.reset_slot] at hj; exact absurd rfl hj
    · rw [State.reset_slot] at hi; cases hi
    · rw [State.reset_slot] at hk; cases hk
  · rw [State.reset_slot]; rfl

end Sys2Proof.Machine
end

section
/-! The owner's body writes, seals and body reads of a region (O23 to O27, O30). -/

namespace Sys2Proof.Machine

/-! ## The words of a slot as a set of offsets (R17, R31) -/

theorem cellsGet_eq_none {m : List (Nat × Word)} {a : Nat} (h : ∀ c ∈ m, c.1 ≠ a) : cellsGet m a = none := by
  induction m with
  | nil => rfl
  | cons c rest ih =>
    obtain ⟨k, v⟩ := c
    obtain ⟨hk, hrest⟩ := List.forall_mem_cons.1 h
    rw [cellsGet, if_neg hk, ih hrest]

/-- An offset joins the set, or takes a new word. -/
theorem length_cellsPut {m : List (Nat × Word)} (h : cellsRising m = true) (a : Nat) (w : Word) :
    (cellsPut m a w).length = m.length + if (cellsGet m a).isSome then 0 else 1 := by
  rw [cellsRising_iff] at h
  induction m with
  | nil => rfl
  | cons c rest ih =>
    obtain ⟨k, v⟩ := c
    obtain ⟨hk, hrest⟩ := List.pairwise_cons.1 h
    by_cases hlt : a < k
    · have hnone : cellsGet ((k, v) :: rest) a = none := by
        refine cellsGet_eq_none fun c hc => ?_
        rcases List.mem_cons.1 hc with rfl | hc
        · exact hlt.ne'
        · exact (hlt.trans (hk c hc)).ne'
      simp [cellsPut, hlt, hnone]
    · by_cases heq : a = k
      · simp [cellsPut, cellsGet, heq]
      · simp [cellsPut, cellsGet, hlt, heq, Ne.symm heq, ih hrest]
        omega

/-- A merged offset holds the FILLING slot's word, or else the SEALED slot's. -/
theorem cellsGet_mergeWords (m : List (Nat × Word)) {ws : List (Nat × Word)} (h : cellsRising ws = true) (o : Nat) :
    cellsGet (mergeWords m ws) o = (cellsGet ws o).or (cellsGet m o) := by
  rw [cellsRising_iff] at h
  induction ws generalizing m with
  | nil => rfl
  | cons c rest ih =>
    obtain ⟨off, w⟩ := c
    obtain ⟨hoff, hrest⟩ := List.pairwise_cons.1 h
    rw [mergeWords, ih _ hrest, cellsGet_put, cellsGet]
    by_cases ho : off = o
    · have hnone : cellsGet rest o = none := cellsGet_eq_none fun c hc => (ho ▸ hoff c hc : o < c.1).ne'
      simp [ho, hnone]
    · simp [ho]

/-- The word count of the union of the two sets of offsets. -/
theorem length_mergeWords {m ws : List (Nat × Word)} (hm : cellsRising m = true) (h : cellsRising ws = true) :
    (mergeWords m ws).length = m.length + ws.countP fun c => (cellsGet m c.1).isNone := by
  rw [cellsRising_iff] at h
  induction ws generalizing m with
  | nil => rfl
  | cons c rest ih =>
    obtain ⟨off, w⟩ := c
    obtain ⟨hoff, hrest⟩ := List.pairwise_cons.1 h
    have hsame : rest.countP (fun c => (cellsGet (cellsPut m off w) c.1).isNone)
        = rest.countP fun c => (cellsGet m c.1).isNone :=
      List.countP_congr fun c hc => by
        have hne : off ≠ c.1 := (hoff c hc).ne
        rw [cellsGet_put, if_neg hne]
    rw [mergeWords, ih (cellsRising_put off w hm) hrest, hsame, length_cellsPut hm, List.countP_cons]
    cases cellsGet m off
    · simp; omega
    · simp

/-! ## Operations on an access that ends at its arrival -/

/-- A slot changes and the access ends. -/
theorem State.register_setSlot_endAccess (s : State) (p : Port) (a : Access) (k : Fin 12) (x : Slot) (d : Option Word) :
    (((s.strobe p).register p a).setSlot k x).endAccess p d =
      { s.answered p d with slots := s.slots.set k x } := by
  cases p <;> rfl

theorem State.withRegion_endAccess (s : State) (p : Port) (r : Fin 64) (x : Region) (d : Option Word) :
    (s.withRegion r x).endAccess p d = (s.endAccess p d).withRegion r x := by
  cases p <;> rfl

theorem State.waiting_hold (s : State) (w : List WaitEntry) (p : Port) (c : WaitCause) (k : AccessClass) :
    ({ s with waiting := w } : State).hold p c k = { s.hold p c k with waiting := w } := by
  cases p <;> rfl

/-! ## The owner's accesses (Table 1-4) -/

/-- A region's words begin at its base. -/
theorem State.base_le_of_accessesRegion {s : State} {p : Port} {addr : Addr} {r : Fin 64} {x : Region}
    (h : s.accessesRegion p addr r x) : x.entry.base.toNat ≤ addr.toNat := by
  obtain ⟨-, -, -, hat, hx⟩ := h
  have hcov : s.regionCovers r addr = true := (find?_finRange_eq_some.1 hat).1
  simp only [State.regionCovers, hx, Entry.covers, Bool.and_eq_true, decide_eq_true_eq] at hcov
  exact hcov.1

section
variable {s : State} {p : Port} {oe : Bool} {addr : Addr} {v : Word} {r : Fin 64} {x : Region}

/-- The owner's write of another word than the header is a body write. -/
theorem exec_of_ownerBodyWrite (h : s.accessesRegion p addr r x) (hw : x.entry.writer = p)
    (ha : addr.toNat ≠ x.entry.base.toNat) :
    exec (.accessArrival p oe true addr v) s =
      .next (((s.strobe p).register p (s.newAccess .write addr v)).ownerBodyWrite p r
        (addr.toNat - x.entry.base.toNat) v) := by
  have hb := State.base_le_of_accessesRegion h
  have hoff : addr.toNat - x.entry.base.toNat ≠ 0 := by omega
  rw [exec_accessArrival_of_ready h.1 (by simp), State.dispatch_of_accessesRegion h]
  simp [State.regionAccess, hw, dirOf, Entry.offset, hoff]

/-- The owner's write of the header word is a seal (R29). -/
theorem exec_of_ownerSeal (h : s.accessesRegion p addr r x) (hw : x.entry.writer = p)
    (ha : addr.toNat = x.entry.base.toNat) :
    exec (.accessArrival p oe true addr v) s =
      .next (((s.strobe p).register p (s.newAccess .write addr v)).ownerSeal p r) := by
  rw [exec_accessArrival_of_ready h.1 (by simp), State.dispatch_of_accessesRegion h]
  simp [State.regionAccess, hw, dirOf, Entry.offset, ha]

/-- The owner's read of another word than the header is a body read. -/
theorem exec_of_ownerBodyRead (h : s.accessesRegion p addr r x) (hw : x.entry.writer = p)
    (ha : addr.toNat ≠ x.entry.base.toNat) :
    exec (.accessArrival p true false addr v) s =
      .next (((s.strobe p).register p (s.newAccess .read addr v)).ownerBodyRead p r
        (addr.toNat - x.entry.base.toNat)) := by
  have hb := State.base_le_of_accessesRegion h
  have hoff : addr.toNat - x.entry.base.toNat ≠ 0 := by omega
  rw [exec_accessArrival_of_ready h.1 (by simp), State.dispatch_of_accessesRegion h]
  simp [State.regionAccess, hw, dirOf, Entry.offset, hoff]

end

/-! ### What an arrival leaves of the Stage Pool -/

theorem State.register_slotIn (s : State) (p : Port) (a : Access) (st : SlotState) (r : Fin 64) :
    ((s.strobe p).register p a).slotIn st r = s.slotIn st r :=
  State.slotIn_of_slots (by simp) st r

theorem State.register_fillingLink (s : State) (p : Port) (a : Access) (r : Fin 64) :
    ((s.strobe p).register p a).fillingLink r = s.fillingLink r := s.register_slotIn p a .filling r

theorem State.register_sealedLink (s : State) (p : Port) (a : Access) (r : Fin 64) :
    ((s.strobe p).register p a).sealedLink r = s.sealedLink r := s.register_slotIn p a .sealed r

theorem State.register_freeSlot (s : State) (p : Port) (a : Access) :
    ((s.strobe p).register p a).freeSlot = s.freeSlot := State.freeSlot_of_slots (by simp)

theorem State.register_holdsSealedAndCommitting (s : State) (p : Port) (a : Access) (r : Fin 64) :
    ((s.strobe p).register p a).holdsSealedAndCommitting r = s.holdsSealedAndCommitting r :=
  State.holdsSealedAndCommitting_of_slots (by simp) r

/-! ## Body writes -/

/-- A body write to a region that holds a FILLING slot (R21). -/
theorem State.ownerBodyWrite_of_filling {s : State} {r : Fin 64} {k : Fin 12} (h : s.fillingLink r = some k) (p : Port)
    (off : Nat) (v : Word) :
    s.ownerBodyWrite p r off v =
      (s.setSlot k { s.slots[k] with words := cellsPut s.slots[k].words off v }).endAccess p none := by
  simp only [State.ownerBodyWrite, h]

/-- A body write that is given a slot (R22). -/
theorem State.ownerBodyWrite_of_free {s : State} {r : Fin 64} {k : Fin 12} (hf : s.fillingLink r = none)
    (hb : s.holdsSealedAndCommitting r = false) (hk : s.freeSlot = some k) (p : Port) (off : Nat) (v : Word) :
    s.ownerBodyWrite p r off v = (s.giveFilling k r off v).endAccess p none := by
  simp [State.ownerBodyWrite, hf, hb, hk]

/-- A body write that waits (R23). -/
theorem State.ownerBodyWrite_of_waits {s : State} {r : Fin 64} (hf : s.fillingLink r = none)
    (h : s.holdsSealedAndCommitting r = true ∨ s.freeSlot = none) (p : Port) (off : Nat) (v : Word) :
    s.ownerBodyWrite p r off v = s.waitForSlot p r (.body off) v := by
  simp only [State.ownerBodyWrite, hf]
  split
  · rfl
  · rename_i hb
    rw [h.resolve_left hb]

/-- Settles O23: the words are those of `cellsPut`. -/
theorem ownerBodyWriteGoesIntoTheFillingSlot : Obligations.OwnerBodyWriteGoesIntoTheFillingSlot := by
  intro s p oe addr v r x k hacc hw ha hk off
  refine ⟨cellsPut s.slots[k].words off v, ?_, fun o => ?_, fun hr => ⟨cellsRising_put off v hr, length_cellsPut hr off v⟩⟩
  · rw [exec_of_ownerBodyWrite hacc hw ha,
      State.ownerBodyWrite_of_filling ((s.register_fillingLink p _ r).trans hk), State.register_setSlot_endAccess]
    simp [off]
  · rw [cellsGet_put]
    simp only [eq_comm]

/-! ## Waiting for a slot (R23) -/

/-- An entry that arrived last joins at the tail. -/
theorem insertWaiting_of_last {e : WaitEntry} {l : List WaitEntry} (h : ∀ d ∈ l, d.order ≤ e.order) :
    insertWaiting e l = l ++ [e] := by
  induction l with
  | nil => rfl
  | cons d rest ih =>
    obtain ⟨hd, hrest⟩ := List.forall_mem_cons.1 h
    rw [insertWaiting, if_neg (by omega), ih hrest, List.cons_append]

/-- A write that waits from its arrival. -/
theorem State.register_waitForSlot {s : State} (h : ∀ e ∈ s.waiting, e.order ≤ s.arrivals) (p : Port) (addr : Addr)
    (v : Word) (r : Fin 64) (ask : StageAsk) (value : Word) :
    ((s.strobe p).register p (s.newAccess .write addr v)).waitForSlot p r ask value =
      { s.waitsAt p .write addr v (s.stageCause r ask) .ownerWrite with
        waiting := s.waiting ++ [{ port := p, region := r, ask := ask, value := value, order := s.arrivals }] } := by
  have hcause := State.stageCause_of_slots (s := s) (t := (s.strobe p).register p (s.newAccess .write addr v)) (by simp)
  have hlast : insertWaiting { port := p, region := r, ask := ask, value := value, order := s.arrivals } s.waiting = _ :=
    insertWaiting_of_last h
  simp only [State.waitForSlot, State.port_register_self, State.newAccess_order, State.register_waiting,
    State.strobe_waiting, hcause, hlast, State.waiting_hold, State.register_hold]

theorem State.holdsSealedAndCommitting_iff (s : State) (r : Fin 64) :
    s.holdsSealedAndCommitting r = true ↔ (s.sealedLink r).isSome = true ∧ (s.committingLink r).isSome = true := by
  simp [State.holdsSealedAndCommitting]

/-- A seal with nothing staged and no FREE slot waits (R32). -/
theorem State.ownerSeal_of_waits {s : State} {r : Fin 64} (hf : s.fillingLink r = none) (hl : s.sealedLink r = none)
    (hk : s.freeSlot = none) (p : Port) : s.ownerSeal p r = s.waitForSlot p r .seal 0#16 := by
  simp only [State.ownerSeal, hf, hl, hk]

/-- Settles O24: by whether the region holds S+C, and whether a slot is FREE. -/
theorem ownerWriteTakesASlotOrWaits : Obligations.OwnerWriteTakesASlotOrWaits := by
  intro s p oe addr v r x hacc hw hf horder off full both
  have hfull : s.freeSlot = none ↔ full := State.freeSlot_eq_none
  have hboth : s.holdsSealedAndCommitting r = true ↔ both := s.holdsSealedAndCommitting_iff r
  have hf' := fun a => (s.register_fillingLink p a r).trans hf
  refine ⟨fun ha hnb k hk hlow => ?_, fun ha hwait => ?_, fun ha hl hfl => ?_⟩
  · rw [exec_of_ownerBodyWrite hacc hw ha, State.ownerBodyWrite_of_free (hf' _)
      ((s.register_holdsSealedAndCommitting p _ r).trans (Bool.eq_false_iff.2 (mt hboth.1 hnb)))
      ((s.register_freeSlot p _).trans (State.freeSlot_eq_some.2 ⟨hk, hlow⟩)), State.giveFilling,
      State.register_setSlot_endAccess]
  · rw [exec_of_ownerBodyWrite hacc hw ha, State.ownerBodyWrite_of_waits (hf' _)
      (by rwa [State.register_holdsSealedAndCommitting, State.register_freeSlot, hboth, hfull]),
      State.register_waitForSlot horder]
    by_cases hb : both
    · simp [State.stageCause, hboth.2 hb, hb, off]
    · simp [State.stageCause, Bool.eq_false_iff.2 (mt hboth.1 hb), hb, off]
  · rw [exec_of_ownerSeal hacc hw ha, State.ownerSeal_of_waits (hf' _) ((s.register_sealedLink p _ r).trans hl)
      ((s.register_freeSlot p _).trans (hfull.2 hfl)), State.register_waitForSlot horder]
    rfl

/-! ## Seals -/

theorem State.slotIn_isSome {s : State} {st : SlotState} {r : Fin 64} {k : Fin 12} (hs : s.slots[k].state = st)
    (hr : s.slots[k].region = some r) : (s.slotIn st r).isSome = true :=
  Option.isSome_iff_ne_none.2 fun h => State.slotIn_eq_none.1 h k hs hr

/-- The hold timer of a region that holds a SEALED slot (R65 to R68). -/
theorem State.noteDeferral_of_sealed {s : State} {r : Fin 64} {x : Region} (h : s.region? r = some x)
    (hl : (s.sealedLink r).isSome = true) :
    s.noteDeferral r = s.withRegion r
      { x with holdTimer := x.holdWhileSealed (sessionIn (s.sessions x.entry.writer.other) r) s.time } := by
  rw [State.noteDeferral_eq h, if_pos hl]

/-- A slot is sealed: it joins the Commit Queue, and the hold timer runs when the region defers (R35, R62, R66). -/
theorem State.sealAs_eq {s : State} {r : Fin 64} {x : Region} (h : s.region? r = some x) (k : Fin 12)
    (ws : List (Nat × Word)) :
    s.sealAs k r ws =
      ({ s with
          slots := s.slots.set k { state := .sealed, region := some r, words := ws }
          commitQueue := s.commitQueue ++ [k] } : State).withRegion r
        { x with holdTimer := x.holdWhileSealed (sessionIn (s.sessions x.entry.writer.other) r) s.time } := by
  have hslot := s.slots_setSlot_get k k { state := .sealed, region := some r, words := ws }
  rw [if_pos rfl] at hslot
  exact State.noteDeferral_of_sealed (s := { s with
    slots := s.slots.set k { state := .sealed, region := some r, words := ws }
    commitQueue := s.commitQueue ++ [k] }) h
    (State.slotIn_isSome (k := k) (congrArg Slot.state hslot) (congrArg Slot.region hslot))

/-- A seal on combination F or F+C (R30). -/
theorem State.ownerSeal_of_filling {s : State} {r : Fin 64} {f : Fin 12} (hf : s.fillingLink r = some f)
    (hl : s.sealedLink r = none) (p : Port) :
    s.ownerSeal p r = (s.sealAs f r s.slots[f].words).endAccess p none := by
  simp only [State.ownerSeal, hf, hl]

/-- A seal on combination none or C (R32). -/
theorem State.ownerSeal_of_free {s : State} {r : Fin 64} {k : Fin 12} (hf : s.fillingLink r = none)
    (hl : s.sealedLink r = none) (hk : s.freeSlot = some k) (p : Port) :
    s.ownerSeal p r = (s.sealAs k r []).endAccess p none := by
  simp only [State.ownerSeal, hf, hl, hk]

/-- A seal on combination F+S (R31). -/
theorem State.ownerSeal_of_both {s : State} {r : Fin 64} {f k : Fin 12} (hf : s.fillingLink r = some f)
    (hl : s.sealedLink r = some k) (p : Port) :
    s.ownerSeal p r =
      (((s.setSlot k { s.slots[k] with words := mergeWords s.slots[k].words s.slots[f].words }).setSlot f
        Slot.empty).endAccess p none).serveWaiting := by
  simp only [State.ownerSeal, hf, hl]

/-- A seal on combination S or S+C (R33). -/
theorem State.ownerSeal_of_absorbed {s : State} {r : Fin 64} {k : Fin 12} (hf : s.fillingLink r = none)
    (hl : s.sealedLink r = some k) (p : Port) : s.ownerSeal p r = s.endAccess p none := by
  simp only [State.ownerSeal, hf, hl]

/-- Settles O25: both seals are `sealAs` on the slot that R30 or R32 gives. -/
theorem sealMakesASealedSlot : Obligations.SealMakesASealedSlot := by
  intro s p oe addr v r x k hacc hw ha hl hk ws
  obtain ⟨-, -, -, -, hx⟩ := id hacc
  generalize ht : (s.strobe p).register p (s.newAccess .write addr v) = t
  have hlf : t.fillingLink r = s.fillingLink r := ht ▸ s.register_fillingLink p _ r
  have hls : t.sealedLink r = none := (ht ▸ s.register_sealedLink p _ r).trans hl
  have hslots : t.slots = s.slots := by simp [← ht]
  have hseal : t.ownerSeal p r = (t.sealAs k r ws).endAccess p none := by
    rcases hk with hf | ⟨hf, hfree⟩
    · simp [State.ownerSeal_of_filling (hlf.trans hf) hls, ws, hf, hslots]
    · have hk : t.freeSlot = some k := (State.freeSlot_of_slots hslots).trans (State.freeSlot_eq_some.2 hfree)
      simp [State.ownerSeal_of_free (hlf.trans hf) hls hk, ws, hf]
  have hx' : t.region? r = some x := (State.region?_of_live (by simp [← ht]) r).trans hx
  rw [exec_of_ownerSeal hacc hw ha, ht, hseal, State.sealAs_eq hx', State.withRegion_endAccess, hw, ← ht]
  cases p <;> rfl

/-- Settles O26: the words are those of `mergeWords`. -/
theorem sealCoalescesIntoTheSealedSlot : Obligations.SealCoalescesIntoTheSealedSlot := by
  intro s p oe addr v r x f k hacc hw ha hf hk hrise
  refine ⟨mergeWords s.slots[k].words s.slots[f].words, ?_, cellsGet_mergeWords _ hrise,
    fun hr => ⟨cellsRising_mergeWords _ hr, length_mergeWords hr hrise⟩⟩
  rw [exec_of_ownerSeal hacc hw ha, State.ownerSeal_of_both ((s.register_fillingLink p _ r).trans hf)
    ((s.register_sealedLink p _ r).trans hk)]
  cases p <;> rfl

/-- Settles O27: the seal ends, and nothing but its port's record and the count of arrivals changes. -/
theorem absorbedSealChangesNothing : Obligations.AbsorbedSealChangesNothing := by
  intro s p oe addr v r x k hacc hw ha hf hk
  rw [exec_of_ownerSeal hacc hw ha, State.ownerSeal_of_absorbed ((s.register_fillingLink p _ r).trans hf)
    ((s.register_sealedLink p _ r).trans hk), State.register_endAccess]

/-! ## Body reads (R27) -/

theorem State.slotValue_eq_bind (s : State) (link : Option (Fin 12)) (off : Nat) :
    s.slotValue link off = link.bind fun k => cellsGet s.slots[k].words off := by
  cases link <;> rfl

/-- Settles O30: by which of the three slots holds the offset. -/
theorem ownerBodyReadTakesTheNewestValue : Obligations.OwnerBodyReadTakesTheNewestValue := by
  intro s p addr v r x hacc hw ha held
  have hstaged : ((s.strobe p).register p (s.newAccess .read addr v)).stagedValue r (addr.toNat - x.entry.base.toNat) =
      (held (s.fillingLink r)).or ((held (s.sealedLink r)).or (held (s.committingLink r))) := by
    rw [State.stagedValue_of_slots (s := s) (by simp)]
    simp only [State.stagedValue, State.slotValue_eq_bind, held]
  rw [exec_of_ownerBodyRead hacc hw ha, State.ownerBodyRead, hstaged]
  cases held (s.fillingLink r) with
  | some w => exact congrArg _ (s.register_endAccess p _ (some w))
  | none =>
    cases held (s.sealedLink r) with
    | some w => exact congrArg _ (s.register_endAccess p _ (some w))
    | none =>
      cases held (s.committingLink r) with
      | some w => exact congrArg _ (s.register_endAccess p _ (some w))
      | none => exact congrArg _ (s.register_hold p .read addr v .arbiter .memory)

end Sys2Proof.Machine
end

section
/-! The service of the list of waiting writes (O28), and the wait limit that ends a wait (O36). -/

namespace Sys2Proof.Machine

/-! ## The two ends of a served entry -/

/-- A wait that is not for a load. -/
theorem State.hold_eq {c : WaitCause} (hc : c ≠ .load) (s : State) (p : Port) (k : AccessClass) :
    s.hold p c k =
      s.setPort p { s.port p with access := (s.port p).access.map fun a => { a with phase := .held c, cls := k } } := by
  have hload : (c == WaitCause.load) = false := by simpa using hc
  simp only [State.hold, State.updAccess, hload, Bool.or_false]

/-- A write that completes drives nothing. -/
theorem State.endAccess_none (s : State) (p : Port) :
    s.endAccess p none = s.setPort p { s.port p with access := none, driven := none } := by
  rw [State.endAccess, PortRec.drives_none]

theorem State.noteDeferral_of_noRecord {s : State} {r : Fin 64} (h : s.region? r = none) : s.noteDeferral r = s := by
  unfold State.noteDeferral State.updRegion
  unfold State.region? at h
  cases hl : s.live with
  | none => rfl
  | some l =>
    have hr : l.regions[r.val] = none := by simpa [hl] using h
    have hset : l.regions.set r.val none = l.regions := by
      rw [← hr, Vector.set_getElem_self]
    simp [hr, hset, ← hl]

/-! ## What the service of one entry does (R23, R24) -/

section
variable {s : State} {e : WaitEntry}

/-- An entry that is not eligible, or finds no FREE slot, waits on with the cause that holds. -/
theorem State.serveEntry_of_waits (h : s.stageCause e.region e.ask ≠ .slot ∨ s.freeSlot = none) :
    s.serveEntry e =
      s.setPort e.port
        { s.port e.port with
          access := (s.port e.port).access.map fun a =>
            { a with phase := .held (s.stageCause e.region e.ask), cls := .ownerWrite } } := by
  rw [← State.hold_eq (s.stageCause_ne_load _ _), State.serveEntry]
  split
  · rename_i hcause hk
    rcases h with h | h
    · exact absurd hcause h
    · exact absurd (h.symm.trans hk) (by simp)
  · rfl

theorem State.serveEntry_of_served {k : Fin 12} (hc : s.stageCause e.region e.ask = .slot) (hk : s.freeSlot = some k) :
    s.serveEntry e =
      ({ s with waiting := s.waiting.filter fun w => w.port != e.port }.giveSlot k e.region e.ask e.value).endAccess
        e.port none := by
  simp only [State.serveEntry, hc, hk]

/-- A body write that is served takes the slot as FILLING with its word (R22). -/
theorem State.serveEntry_of_body {k : Fin 12} {off : Nat} (ha : e.ask = .body off)
    (hb : s.holdsSealedAndCommitting e.region = false) (hf : s.fillingLink e.region = none) (hk : s.freeSlot = some k) :
    s.serveEntry e =
      ({ s with
          waiting := s.waiting.filter fun w => w.port != e.port
          slots := s.slots.set k { state := .filling, region := some e.region, words := [(off, e.value)] } }
        : State).setPort e.port { s.port e.port with access := none, driven := none } := by
  have hf' : ({ s with waiting := s.waiting.filter fun w => w.port != e.port } : State).fillingLink e.region = none := hf
  rw [State.serveEntry_of_served (by simp [State.stageCause, ha, hb]) hk, State.endAccess_none, ha]
  simp only [State.giveSlot, hf']
  cases e.port <;> rfl

/-- A seal that is served is made on the FREE slot, with no words (R32). -/
theorem State.serveEntry_of_sealAs {k : Fin 12} (ha : e.ask = .seal) (hf : s.fillingLink e.region = none)
    (hl : s.sealedLink e.region = none) (hk : s.freeSlot = some k) :
    s.serveEntry e =
      ({ s with waiting := s.waiting.filter fun w => w.port != e.port }.sealAs k e.region []).setPort e.port
        { s.port e.port with access := none, driven := none } := by
  have hf' : ({ s with waiting := s.waiting.filter fun w => w.port != e.port } : State).fillingLink e.region = none := hf
  have hl' : ({ s with waiting := s.waiting.filter fun w => w.port != e.port } : State).sealedLink e.region = none := hl
  obtain ⟨x, q, l, h⟩ :=
    State.sealAs_only { s with waiting := s.waiting.filter fun w => w.port != e.port } k e.region []
  rw [State.serveEntry_of_served (by simp [State.stageCause, ha]) hk, State.endAccess_none, ha]
  simp only [State.giveSlot, hf', hl', h]
  cases e.port <;> rfl

/-- A seal that is served joins the Commit Queue, and its region's hold timer runs when it defers (R62, R66). -/
theorem State.serveEntry_of_seal {k : Fin 12} {x : Region} (ha : e.ask = .seal) (hf : s.fillingLink e.region = none)
    (hl : s.sealedLink e.region = none) (hk : s.freeSlot = some k) (hx : s.region? e.region = some x) :
    s.serveEntry e =
      (({ s with
          waiting := s.waiting.filter fun w => w.port != e.port
          slots := s.slots.set k { state := .sealed, region := some e.region, words := [] }
          commitQueue := s.commitQueue ++ [k] } : State).withRegion e.region
        { x with holdTimer := x.holdWhileSealed (sessionIn (s.sessions x.entry.writer.other) e.region) s.time }).setPort
        e.port { s.port e.port with access := none, driven := none } :=
  (State.serveEntry_of_sealAs ha hf hl hk).trans (congrArg (State.setPort · _ _)
    (State.sealAs_eq (s := { s with waiting := s.waiting.filter fun w => w.port != e.port }) hx k []))

/-- A region without a record has no hold timer (log 20). -/
theorem State.serveEntry_of_seal_noRecord {k : Fin 12} (ha : e.ask = .seal) (hf : s.fillingLink e.region = none)
    (hl : s.sealedLink e.region = none) (hk : s.freeSlot = some k) (hx : s.region? e.region = none) :
    s.serveEntry e =
      ({ s with
          waiting := s.waiting.filter fun w => w.port != e.port
          slots := s.slots.set k { state := .sealed, region := some e.region, words := [] }
          commitQueue := s.commitQueue ++ [k] } : State).setPort
        e.port { s.port e.port with access := none, driven := none } :=
  (State.serveEntry_of_sealAs ha hf hl hk).trans (congrArg (State.setPort · _ _)
    (State.noteDeferral_of_noRecord (s := { s with
      waiting := s.waiting.filter fun w => w.port != e.port
      slots := s.slots.set k { state := .sealed, region := some e.region, words := [] }
      commitQueue := s.commitQueue ++ [k] }) hx))

/-- The service of an entry leaves the other port. -/
theorem State.serveEntry_port_other {q : Port} (hq : q ≠ e.port) : (s.serveEntry e).port q = s.port q := by
  unfold State.serveEntry
  split
  · rename_i k _ _
    obtain ⟨x, c, l, h⟩ := State.giveSlot_only { s with waiting := s.waiting.filter fun w => w.port != e.port } k
      e.region e.ask e.value
    rw [h, State.endAccess, State.port_setPort, if_neg hq.symm]
    cases q <;> rfl
  · rw [State.hold, State.updAccess, State.port_setPort, if_neg hq.symm]

/-- An entry leaves the list when it is served, and no other does. -/
theorem State.serveEntry_waiting :
    (s.serveEntry e).waiting = s.waiting ∨ (s.serveEntry e).waiting = s.waiting.filter fun w => w.port != e.port := by
  unfold State.serveEntry
  split
  · rename_i k _ _
    obtain ⟨x, c, l, h⟩ := State.giveSlot_only { s with waiting := s.waiting.filter fun w => w.port != e.port } k
      e.region e.ask e.value
    exact .inr (by rw [h, State.endAccess_waiting])
  · exact .inl (State.hold_waiting _ _ _ _)

end

/-! ## The slots of another region -/

/-- A slot that is another region's gives region `r` no link. -/
theorem State.slotIn_none_of_set {s t : State} {st : SlotState} {r q : Fin 64} {k : Fin 12} {x : Slot} (hr : q ≠ r)
    (ht : t.slots = s.slots.set k x) (hx : x.region = some r) (h : s.slotIn st q = none) : t.slotIn st q = none := by
  rw [State.slotIn_of_slots (s := s.setSlot k x) ht, State.slotIn_eq_none]
  intro j
  rw [State.slots_setSlot_get]
  split
  · intro _; rw [hx]; simpa using hr.symm
  · exact State.slotIn_eq_none.1 h j

theorem State.sealAs_slots (s : State) (k : Fin 12) (r : Fin 64) (ws : List (Nat × Word)) :
    (s.sealAs k r ws).slots = s.slots.set k { state := .sealed, region := some r, words := ws } := by
  obtain ⟨l, h⟩ := State.noteDeferral_only
    { s.setSlot k { state := .sealed, region := some r, words := ws } with commitQueue := s.commitQueue ++ [k] } r
  rw [State.sealAs, h]; rfl

/-- A region is given no slot by what another region's write is given. -/
theorem State.giveSlot_slotIn_none {s : State} {st : SlotState} {r q : Fin 64} (hr : q ≠ r)
    (h : s.slotIn st q = none) (k : Fin 12) (ask : StageAsk) (v : Word) : (s.giveSlot k r ask v).slotIn st q = none := by
  unfold State.giveSlot
  split
  · exact State.slotIn_none_of_set hr (State.setSlot_slots ..) rfl h
  · exact State.slotIn_none_of_set hr (State.setSlot_slots ..) (State.slotIn_eq_some ‹_›).2 h
  · exact State.slotIn_none_of_set hr (State.sealAs_slots ..) rfl h
  · exact State.slotIn_none_of_set hr (State.sealAs_slots ..) rfl h
  · exact h

theorem State.serveEntry_slotIn_none {s : State} {e : WaitEntry} {st : SlotState} {q : Fin 64} (hr : q ≠ e.region)
    (h : s.slotIn st q = none) : (s.serveEntry e).slotIn st q = none := by
  unfold State.serveEntry
  split
  · rw [State.slotIn_of_slots (State.endAccess_slots _ _ _)]
    refine State.giveSlot_slotIn_none hr ?_ _ _ _
    exact h
  · rwa [State.slotIn_of_slots (State.hold_slots _ _ _ _)]

/-! ## The list (R24) -/

theorem State.serveWaiting_of_one {s : State} {e : WaitEntry} (h : s.waiting = [e]) : s.serveWaiting = s.serveEntry e := by
  rw [State.serveWaiting, h]; rfl

theorem State.serveWaiting_of_two {s : State} {e d : WaitEntry} (h : s.waiting = [e, d]) :
    s.serveWaiting = (s.serveEntry e).serveEntry d := by
  rw [State.serveWaiting, h]; rfl

/-- A port's record and another's change in either order. -/
theorem State.setPort_comm {p q : Port} (h : p ≠ q) (s : State) (x y : PortRec) :
    (s.setPort p x).setPort q y = (s.setPort q y).setPort p x := by
  cases p <;> cases q
  · exact absurd rfl h
  · rfl
  · rfl
  · exact absurd rfl h

theorem State.setPort_list_slots (s : State) (p : Port) (x : PortRec) (w : List WaitEntry) (sl : Vector Slot 12) :
    { s.setPort p x with waiting := w, slots := sl } = ({ s with waiting := w, slots := sl } : State).setPort p x := by
  cases p <;> rfl

/-- Settles O28: each entry is served as `serveEntry` has it, and the second on the state that the first leaves. -/
theorem waitingWritesAreServedInOrderOfArrival : Obligations.WaitingWritesAreServedInOrderOfArrival := by
  intro s e d off o k waits completes filled
  refine ⟨fun h => ?_, fun h ha hb => ?_, fun h ha hk => ?_, fun h ha hf hl hk x hx => ?_, fun ha hb hf hk =>
    ⟨fun h => ?_, fun h hp hd hfull => ?_, fun h hp hd hdb => ?_⟩, fun h hp hr hnone => ?_⟩
  · rw [State.serveWaiting, h]; rfl
  · have hc : s.stageCause e.region e.ask = .commit := by simp [State.stageCause, ha, hb]
    rw [State.serveWaiting_of_one h, State.serveEntry_of_waits (.inl (by simp [hc])), hc]
  · have hc : s.stageCause e.region e.ask = .slot := by
      rcases ha with ha | ⟨ha, hb⟩
      · simp [State.stageCause, ha]
      · simp [State.stageCause, ha, hb]
    rw [State.serveWaiting_of_one h, State.serveEntry_of_waits (.inr hk), hc]
  · rw [State.serveWaiting_of_one h, State.serveEntry_of_seal ha hf hl hk hx, h]
    simp [completes]
  · rw [State.serveWaiting_of_one h, State.serveEntry_of_body ha hb hf hk, h]
    simp [completes, filled]
  · have hu : s.serveEntry e = completes { s with waiting := [d], slots := filled } := by
      rw [State.serveEntry_of_body ha hb hf hk, h]
      simp [completes, filled, hp]
    have hslots : (s.serveEntry e).slots = filled := by
      rw [hu]; simp [completes]
    have hnone : (s.serveEntry e).freeSlot = none := by
      rw [State.freeSlot_of_slots (s := s.setSlot k _) hslots, State.freeSlot_eq_none]
      intro j
      rw [State.slots_setSlot_get]
      split
      · simp
      · exact hfull j (Ne.symm ‹_›)
    rw [State.serveWaiting_of_two h, State.serveEntry_of_waits (.inr hnone), State.serveEntry_port_other hp, hd, hu]
    rfl
  · have hc : s.stageCause d.region d.ask = .commit := by simp [State.stageCause, hd, hdb]
    have hu : s.serveEntry d = waits s d.port .commit := by
      rw [State.serveEntry_of_waits (.inl (by simp [hc])), hc]
    have hslots : (waits s d.port .commit).slots = s.slots := State.setPort_slots ..
    rw [State.serveWaiting_of_two h, hu, State.serveEntry_of_body ha
      ((State.holdsSealedAndCommitting_of_slots hslots _).trans hb) ((State.slotIn_of_slots hslots _ _).trans hf)
      ((State.freeSlot_of_slots hslots).trans hk)]
    have hlist : ([d, e].filter fun w => w.port != e.port) = [d] := by simp [hp]
    rw [State.setPort_waiting, h, hlist, State.port_setPort, if_neg hp]
    simp only [hslots]
    exact (congrArg completes (State.setPort_list_slots s d.port _ [d] filled)).trans (State.setPort_comm hp _ _ _)
  · intro serve
    have served (w : WaitEntry) (t : State) (hport : t.port w.port = s.port w.port)
        (hleaves : (t.waiting.filter fun x => x.port != w.port) = t.waiting.erase w)
        (hf : t.fillingLink w.region = none) (hl : w.ask = .seal → t.sealedLink w.region = none) :
        t.serveEntry w = serve w t := by
      rcases ha : w.ask with f | _
      · by_cases hb : t.holdsSealedAndCommitting w.region = true
        · have hc : t.stageCause w.region w.ask = .commit := by simp [State.stageCause, ha, hb]
          rw [State.serveEntry_of_waits (.inl (by simp [hc])), hc, hport]
          simp only [serve, ha, if_pos ((t.holdsSealedAndCommitting_iff _).1 hb), waits]
        · have hc : t.stageCause w.region w.ask = .slot := by simp [State.stageCause, ha, hb]
          have hb' := mt (t.holdsSealedAndCommitting_iff w.region).2 hb
          cases hk : t.freeSlot with
          | none =>
            rw [State.serveEntry_of_waits (.inr hk), hc, hport]
            simp only [serve, ha, if_neg hb', hk, waits]
          | some j =>
            rw [State.serveEntry_of_body ha (by simpa using hb) hf hk, hport, hleaves]
            simp only [serve, ha, if_neg hb', hk]
      · have hc : t.stageCause w.region w.ask = .slot := by simp [State.stageCause, ha]
        cases hk : t.freeSlot with
        | none =>
          rw [State.serveEntry_of_waits (.inr hk), hc, hport]
          simp only [serve, ha, hk, waits]
        | some j =>
          cases hx : t.region? w.region with
          | none =>
            rw [State.serveEntry_of_seal_noRecord ha hf (hl ha) hk hx, hport, hleaves]
            simp only [serve, ha, hk, hx]
          | some x =>
            rw [State.serveEntry_of_seal ha hf (hl ha) hk hx, hport, hleaves]
            simp only [serve, ha, hk, hx]
            rfl
    obtain ⟨hfe, hle⟩ := hnone e (by simp)
    obtain ⟨hfd, hld⟩ := hnone d (by simp)
    have hne : e ≠ d := fun he => hp (he ▸ rfl)
    have first := served e s rfl (by simp [h, hp]) hfe hle
    rw [State.serveWaiting_of_two h, ← first]
    refine served d _ (State.serveEntry_port_other hp) ?_ (State.serveEntry_slotIn_none hr hfd) fun ha =>
      State.serveEntry_slotIn_none hr (hld ha)
    rcases State.serveEntry_waiting (s := s) (e := e) with hw | hw
    · rw [hw, h]
      simp [hp.symm, hne]
    · rw [hw, h]
      simp [hp]

/-! ## The wait limit (R171) -/

/-- The wait limit of an access expires exactly when it is held and its count is reached, with REFCLK running. -/
theorem State.waitDue_iff (s : State) (p : Port) :
    s.waitDue p = true ↔ s.running = true ∧ s.pins.refclk = true ∧
      ∃ a c, (s.port p).access = some a ∧ a.timer = some s.time ∧ a.phase = .held c := by
  unfold State.waitDue
  cases ha : (s.port p).access with
  | none => simp
  | some a => cases hph : a.phase <;> simp [State.due, Access.cause?, hph]

theorem exec_waitLimitExpiry_of_due {s : State} {p : Port} {a : Access} {c : WaitCause} (hd : s.waitDue p = true)
    (ha : (s.port p).access = some a) (hph : a.phase = .held c) :
    exec (.waitLimitExpiry p) s = .next (s.expireWait p a c) := by
  simp [exec, execWaitLimitExpiry, hd, ha, Access.cause?, hph]

theorem exec_waitLimitExpiry_of_not_due {s : State} {p : Port} (hd : s.waitDue p = false) :
    exec (.waitLimitExpiry p) s = .next s := by
  simp [exec, execWaitLimitExpiry, hd]

/-- An access that its wait limit ends leaves the list of waiting writes (R25). -/
theorem State.expireWait_eq (s : State) (p : Port) (a : Access) (c : WaitCause) :
    s.expireWait p a c =
      (({ s with waiting := s.waiting.filter fun e => e.port ≠ p } : State).setPort p
        { s.port p with access := none, driven := (s.port p).drives (endedValue a.dir) }).raise
        (.wait p a.addr a.dir c) := by
  have hleaves : (s.waiting.filter fun w => w.port != p) = s.waiting.filter fun e => e.port ≠ p := by
    simp [bne, beq_eq_decide]
  rw [State.expireWait, hleaves, State.endAccess]
  cases p <;> rfl

/-- Settles O36: by whether the expiry is there to be taken. -/
theorem waitLimitExpiryEndsTheAccess : Obligations.WaitLimitExpiryEndsTheAccess := by
  refine fun s p => ⟨fun a c hr hclk ha ht hph => ?_, fun h => ?_⟩
  · rw [exec_waitLimitExpiry_of_due ((s.waitDue_iff p).2 ⟨hr, hclk, a, c, ha, ht, hph⟩) ha hph, State.expireWait_eq]
    cases hd : a.dir with
    | read => rfl
    | write => rw [endedValue, PortRec.drives_none]
  · refine exec_waitLimitExpiry_of_not_due (Bool.eq_false_iff.2 fun hd => ?_)
    obtain ⟨hr, hclk, a, c, ha, ht, hph⟩ := (s.waitDue_iff p).1 hd
    rcases h with h | h | h
    · simp [hr] at h
    · simp [hclk] at h
    · rcases h a ha with h | h
      · exact h ht
      · simp [hph] at h
end Sys2Proof.Machine
end

section
/-! DRAINING entry (O50): the accesses that wait on with cause LOAD, and the FILLING slots discarded with their faults. -/

namespace Sys2Proof.Machine

/-! ## The accesses that wait on with cause LOAD (R26, R59) -/

/-- The record of a port whose access waits on with cause LOAD. -/
def PortRec.waitOnLoad (r : PortRec) : PortRec :=
  { r with access := r.access.map fun a => { a with phase := .held .load, cls := .unclassed, waitedLoad := true } }

/-- The access of the record waits with cause COMMIT. -/
abbrev PortRec.waitsOnCommit (r : PortRec) : Prop := r.access.map Access.phase = some (.held .commit)

theorem PortRec.waitOnLoad_waitOnLoad (r : PortRec) : r.waitOnLoad.waitOnLoad = r.waitOnLoad := by
  cases h : r.access <;> simp [PortRec.waitOnLoad, h]

theorem PortRec.not_waitsOnCommit_waitOnLoad (r : PortRec) : ¬ r.waitOnLoad.waitsOnCommit := by
  cases h : r.access <;> simp [PortRec.waitsOnCommit, PortRec.waitOnLoad, h]

theorem State.port_hold_load (s : State) (p q : Port) :
    (s.hold p .load .unclassed).port q = if p = q then (s.port q).waitOnLoad else s.port q := by
  rw [State.hold, State.updAccess, State.port_setPort]
  by_cases h : p = q
  · subst h; simp [PortRec.waitOnLoad]
  · rw [if_neg h, if_neg h]

/-- The accesses of the entries withdrawn wait on, and no other. -/
theorem port_holdAllOnLoad (es : List WaitEntry) (s : State) (q : Port) :
    (holdAllOnLoad es s).port q = if ∃ e ∈ es, e.port = q then (s.port q).waitOnLoad else s.port q := by
  induction es generalizing s with
  | nil => simp [holdAllOnLoad]
  | cons e rest ih =>
    rw [holdAllOnLoad, ih, State.port_hold_load]
    by_cases he : e.port = q
    · simp [he, PortRec.waitOnLoad_waitOnLoad]
    · simp [he]

theorem State.port_commitWaitToLoad_other {s : State} {p q : Port} (h : p ≠ q) :
    (s.commitWaitToLoad p).port q = s.port q := by
  unfold State.commitWaitToLoad
  split
  · split
    · rw [State.port_hold_load, if_neg h]
    · rfl
  · rfl

theorem State.port_commitWaitToLoad_of_waits {s : State} {p : Port} (h : (s.port p).waitsOnCommit) :
    (s.commitWaitToLoad p).port p = (s.port p).waitOnLoad := by
  obtain ⟨a, ha, hph⟩ := Option.map_eq_some_iff.1 h
  simp [State.commitWaitToLoad, ha, hph, State.port_hold_load]

theorem State.port_commitWaitToLoad_of_not_waits {s : State} {p : Port} (h : ¬ (s.port p).waitsOnCommit) :
    (s.commitWaitToLoad p).port p = s.port p := by
  unfold State.commitWaitToLoad
  split
  · rename_i a ha
    have hph : a.phase ≠ .held .commit := by simpa [PortRec.waitsOnCommit, ha] using h
    rw [if_neg hph]
  · rfl

/-- The end of both waits at a port is that of its own. -/
theorem State.port_commitWaitsToLoad (s : State) (p : Port) :
    ((s.commitWaitToLoad .a).commitWaitToLoad .b).port p = (s.commitWaitToLoad p).port p := by
  cases p with
  | a => exact State.port_commitWaitToLoad_other (by decide)
  | b =>
    have hb : (s.commitWaitToLoad .a).port .b = s.port .b := State.port_commitWaitToLoad_other (by decide)
    by_cases h : (s.port .b).waitsOnCommit
    · rw [State.port_commitWaitToLoad_of_waits h, State.port_commitWaitToLoad_of_waits (hb ▸ h), hb]
    · rw [State.port_commitWaitToLoad_of_not_waits h, State.port_commitWaitToLoad_of_not_waits (hb ▸ h), hb]

/-- The ports after the waiting writes and the waits for a commit are withdrawn. -/
theorem State.port_withdrawn (s : State) (p : Port) :
    ((s.withdrawWaiting.commitWaitToLoad .a).commitWaitToLoad .b).port p =
      if (∃ e ∈ s.waiting, e.port = p) ∨ (s.port p).waitsOnCommit then (s.port p).waitOnLoad else s.port p := by
  have hw : s.withdrawWaiting.port p = if ∃ e ∈ s.waiting, e.port = p then (s.port p).waitOnLoad else s.port p := by
    rw [State.withdrawWaiting, port_holdAllOnLoad]
    cases p <;> rfl
  rw [State.port_commitWaitsToLoad]
  by_cases he : ∃ e ∈ s.waiting, e.port = p
  · rw [if_pos he] at hw
    rw [if_pos (.inl he), State.port_commitWaitToLoad_of_not_waits (hw ▸ PortRec.not_waitsOnCommit_waitOnLoad _), hw]
  · rw [if_neg he] at hw
    by_cases hc : (s.port p).waitsOnCommit
    · rw [if_pos (.inr hc), State.port_commitWaitToLoad_of_waits (hw ▸ hc), hw]
    · rw [if_neg (by simp [he, hc]), State.port_commitWaitToLoad_of_not_waits (hw ▸ hc), hw]

/-! ## A fault depends on the Fault Log, the alert, the part state and the Time Count alone -/

/-- The two states detect the same faults. -/
def State.SameFaults (s t : State) : Prop :=
  t.part = s.part ∧ t.time = s.time ∧ t.log = s.log ∧ t.alert = s.alert

theorem State.takeItem_log_congr {s t : State} (hp : t.part = s.part) (hl : t.log = s.log) :
    t.takeItem.log = s.takeItem.log := by
  unfold State.takeItem
  rw [hp, hl]
  split
  · exact hl
  · exact hl
  · exact hl
  · rfl

theorem State.SameFaults.enqueue {s t : State} (h : s.SameFaults t) (i : Item) :
    (s.enqueue i).SameFaults (t.enqueue i) := by
  obtain ⟨hp, ht, hl, ha⟩ := h
  have frame (u : State) :
      (u.enqueue i).part = u.part ∧ (u.enqueue i).time = u.time ∧ (u.enqueue i).alert = u.alert := by
    obtain ⟨l, hu⟩ := u.enqueue_only i
    rw [hu]; exact ⟨rfl, rfl, rfl⟩
  obtain ⟨hsp, hst, hsa⟩ := frame s
  obtain ⟨htp, htt, hta⟩ := frame t
  exact ⟨by rw [htp, hsp, hp], by rw [htt, hst, ht], State.takeItem_log_congr hp (by simp only [hl]), by rw [hta, hsa, ha]⟩

theorem State.SameFaults.setPending {s t : State} (h : s.SameFaults t) (c : BitVec 8) :
    (s.setPending c).SameFaults (t.setPending c) := by
  obtain ⟨hp, ht, hl, ha⟩ := h
  exact ⟨hp, ht, hl, by simp only [State.setPending, State.evalAlert, hp, ha]⟩

theorem State.SameFaults.raise {s t : State} (h : s.SameFaults t) (d : FaultDetail) :
    (s.raise d).SameFaults (t.raise d) := by
  obtain ⟨hp, ht, hl, ha⟩ := h
  have hlogs : t.logs = s.logs := by simp only [State.logs, hp, hl]
  have numbered : State.SameFaults { s with log := { s.log with nextSeq := s.log.nextSeq + 1 } }
      { t with log := { t.log with nextSeq := t.log.nextSeq + 1 } } := ⟨hp, ht, by simp only [hl], ha⟩
  have hitem : Item.record { seq := t.log.nextSeq, time := t.time, detail := d } =
      .record { seq := s.log.nextSeq, time := s.time, detail := d } := by rw [hl, ht]
  unfold State.raise
  dsimp only
  rw [hlogs, hitem]
  split
  · exact (numbered.enqueue _).setPending _
  · exact numbered.setPending _

/-! ## The discarded slots (R37) -/

/-- The STAGE fault of the FILLING slot that region `r` holds in `s`, raised in `t`. -/
def State.raiseStage (s t : State) (r : Fin 64) : State :=
  match s.fillingLink r, s.region? r with
  | some k, some x => t.raise (.stage r x.entry.tag s.slots[k].words.length)
  | _, _ => t

/-- Another region's FILLING link stays when a region's FILLING slot is freed. -/
theorem State.fillingLink_of_freed {s : State} {r q : Fin 64} {k : Fin 12} (hk : s.fillingLink r = some k) (hq : q ≠ r) :
    (s.setSlot k Slot.empty).fillingLink q = s.fillingLink q := by
  obtain ⟨-, hregion⟩ := State.slotIn_eq_some hk
  unfold State.fillingLink State.slotIn
  congr 1
  funext j
  rw [State.slots_setSlot_get]
  by_cases hj : k = j
  · subst hj
    rw [if_pos rfl, hregion]
    simp [Slot.empty, hq.symm]
  · rw [if_neg hj]

/-- What region `r` discards in `t` is what it holds in `s`: the same FILLING slot with the same words, and the same tag. -/
def State.SameFilling (s t : State) (r : Fin 64) : Prop :=
  t.fillingLink r = s.fillingLink r ∧ (∀ k, s.fillingLink r = some k → t.slots[k] = s.slots[k])
    ∧ (t.region? r).map (fun x => x.entry.tag) = (s.region? r).map fun x => x.entry.tag

theorem State.discardFilling_of_link {s : State} {r : Fin 64} {k : Fin 12} {x : Region} (hk : s.fillingLink r = some k)
    (hx : s.region? r = some x) :
    s.discardFilling r = (s.setSlot k Slot.empty).raise (.stage r x.entry.tag s.slots[k].words.length) := by
  simp only [State.discardFilling, hk, hx]

theorem State.discardFilling_of_no_link {s : State} {r : Fin 64} (h : s.fillingLink r = none ∨ s.region? r = none) :
    s.discardFilling r = s := by
  unfold State.discardFilling
  rcases h with h | h
  · rw [h]
  · rw [h]; cases s.fillingLink r <;> rfl

theorem State.raiseStage_of_link {s : State} {r : Fin 64} {k : Fin 12} {x : Region} (hk : s.fillingLink r = some k)
    (hx : s.region? r = some x) (t : State) :
    s.raiseStage t r = t.raise (.stage r x.entry.tag s.slots[k].words.length) := by
  simp only [State.raiseStage, hk, hx]

theorem State.raiseStage_of_no_link {s : State} {r : Fin 64} (h : s.fillingLink r = none ∨ s.region? r = none)
    (t : State) : s.raiseStage t r = t := by
  unfold State.raiseStage
  rcases h with h | h
  · rw [h]
  · rw [h]; cases s.fillingLink r <;> rfl

/-- The slots after one is freed with a fault. -/
theorem State.discard_slot (s : State) (k j : Fin 12) (d : FaultDetail) :
    ((s.setSlot k Slot.empty).raise d).slots[j] = if k = j then Slot.empty else s.slots[j] := by
  obtain ⟨l, a, h⟩ := (s.setSlot k Slot.empty).raise_only d
  rw [← State.slots_setSlot_get, h]

/-- A region's FILLING slot is discarded: the slot is freed and the region's fault raised. -/
theorem State.discardFilling_of_same {s t u : State} {r : Fin 64} (hf : s.SameFilling t r) (hu : u.SameFaults t) :
    (s.raiseStage u r).SameFaults (t.discardFilling r)
      ∧ ∀ j : Fin 12, (t.discardFilling r).slots[j] =
          if s.fillingLink r = some j ∧ (s.region? r).isSome then Slot.empty else t.slots[j] := by
  obtain ⟨hlink, hslot, htag⟩ := hf
  cases hk : s.fillingLink r with
  | none =>
    rw [State.raiseStage_of_no_link (.inl hk), State.discardFilling_of_no_link (.inl (hlink.trans hk))]
    exact ⟨hu, fun j => by simp⟩
  | some k =>
    cases hx : s.region? r with
    | none =>
      have hx' : t.region? r = none := by simpa [hx] using htag
      rw [State.raiseStage_of_no_link (.inr hx), State.discardFilling_of_no_link (.inr hx')]
      exact ⟨hu, fun j => by simp⟩
    | some x =>
      obtain ⟨y, hy, htag⟩ : ∃ y, t.region? r = some y ∧ y.entry.tag = x.entry.tag := by simpa [hx] using htag
      rw [State.raiseStage_of_link hk hx, State.discardFilling_of_link (hlink.trans hk) hy, htag, hslot k hk]
      refine ⟨State.SameFaults.raise (t := t.setSlot k Slot.empty) hu _, fun j => ?_⟩
      rw [State.discard_slot]
      simp

/-- The other regions hold what they held. -/
theorem State.discardFilling_keeps_same {s t : State} {r q : Fin 64} (hr : s.SameFilling t r) (hq : s.SameFilling t q)
    (hne : q ≠ r) : s.SameFilling (t.discardFilling r) q := by
  obtain ⟨hlinkr, -, -⟩ := hr
  obtain ⟨hlink, hslot, htag⟩ := hq
  by_cases hnone : t.fillingLink r = none ∨ t.region? r = none
  · rw [State.discardFilling_of_no_link hnone]
    exact ⟨hlink, hslot, htag⟩
  · obtain ⟨⟨k, hk⟩, x, hx⟩ : (∃ k, t.fillingLink r = some k) ∧ ∃ x, t.region? r = some x := by
      simpa [not_or, Option.ne_none_iff_exists'] using hnone
    rw [State.discardFilling_of_link hk hx]
    refine ⟨?_, fun j hj => ?_, ?_⟩
    · obtain ⟨l, a, h⟩ := (t.setSlot k Slot.empty).raise_only (.stage r x.entry.tag t.slots[k].words.length)
      rw [← hlink, ← State.fillingLink_of_freed hk hne, h]
      rfl
    · have hkj : k ≠ j := by
        rintro rfl
        have hregion := (State.slotIn_eq_some hk).2.symm.trans (State.slotIn_eq_some (hlink.trans hj)).2
        exact hne (Option.some.inj hregion).symm
      rw [State.discard_slot, if_neg hkj, hslot j hj]
    · rw [← htag]
      exact congrArg _ (State.region?_of_live (State.raise_live _ _) q)

/-- The FILLING slots of a list of regions are discarded one after the other. -/
theorem foldl_discardFilling_of_same {s t u : State} {rs : List (Fin 64)} (hd : rs.Nodup)
    (hf : ∀ r ∈ rs, s.SameFilling t r) (hu : u.SameFaults t) :
    (rs.foldl s.raiseStage u).SameFaults (rs.foldl State.discardFilling t)
      ∧ ∀ j : Fin 12, (rs.foldl State.discardFilling t).slots[j] =
          if ∃ r ∈ rs, s.fillingLink r = some j ∧ (s.region? r).isSome then Slot.empty else t.slots[j] := by
  induction rs generalizing t u with
  | nil => exact ⟨hu, fun j => by simp⟩
  | cons r rest ih =>
    obtain ⟨hr, hrest⟩ := List.nodup_cons.1 hd
    obtain ⟨hfr, hfrest⟩ := List.forall_mem_cons.1 hf
    obtain ⟨hsame, hslots⟩ := State.discardFilling_of_same hfr hu
    obtain ⟨hsame', hslots'⟩ := ih hrest (fun q hq => State.discardFilling_keeps_same hfr (hfrest q hq)
      fun he => hr (he ▸ hq)) hsame
    refine ⟨hsame', fun j => ?_⟩
    rw [List.foldl_cons, hslots', hslots]
    by_cases h : ∃ q ∈ rest, s.fillingLink q = some j ∧ (s.region? q).isSome
    · rw [if_pos h, if_pos ((List.exists_mem_cons_iff ..).2 (.inr h))]
    · simp only [List.exists_mem_cons_iff, h, if_false, or_false]

/-! ## DRAINING entry -/

theorem State.withdrawn_only (s : State) :
    ∃ a b, (s.withdrawWaiting.commitWaitToLoad .a).commitWaitToLoad .b =
      { s with waiting := [], portA := a, portB := b } := by
  obtain ⟨a, b, h⟩ := holdAllOnLoad_only s.waiting { s with waiting := [] }
  obtain ⟨a', b', h'⟩ := s.withdrawWaiting.commitWaitToLoad_only .a
  obtain ⟨a'', b'', h''⟩ := (s.withdrawWaiting.commitWaitToLoad .a).commitWaitToLoad_only .b
  rw [h'', h', State.withdrawWaiting, h]
  exact ⟨_, _, rfl⟩

theorem State.region?_breakSessions (s : State) (r : Fin 64) :
    s.breakSessions.region? r = (s.region? r).map fun x => { x with holdTimer := none } :=
  State.region?_mapRegions { s with sessionsA := breakAll s.sessionsA, sessionsB := breakAll s.sessionsB } r _

/-- The sessions' end leaves every FILLING slot as it is. -/
theorem State.sameFilling_breakSessions {s t : State} (hs : t.slots = s.slots) (hl : t.live = s.live) (r : Fin 64) :
    s.SameFilling t.breakSessions r := by
  have hslots : t.breakSessions.slots = s.slots := hs
  refine ⟨State.slotIn_of_slots hslots _ _, fun k _ => by simp only [hslots], ?_⟩
  rw [State.region?_breakSessions, State.region?_of_live hl, Option.map_map]
  rfl

/-- Settles O50: the ports by `port_withdrawn`, the slots and the faults by the fold over the regions. -/
theorem drainingEntryWithdrawsUnsealedWork : Obligations.DrainingEntryWithdrawsUnsealedWork := by
  intro s c hfilling discarded
  generalize he : ({ s with part := .draining, ldr := { s.ldr with command := some c }, diagQueue := [] } : State) = e
  obtain ⟨pa, pb, hw⟩ := e.withdrawn_only
  generalize hb : ({ e with waiting := [], portA := pa, portB := pb } : State).breakSessions = b
  have henter : s.enterDraining c = b.discardAllFilling := by
    rw [State.enterDraining, he, hw, hb]
  have hsame : ∀ r ∈ List.finRange 64, s.SameFilling b r := fun r _ =>
    hb ▸ State.sameFilling_breakSessions (by rw [← he]) (by rw [← he]) r
  have hstart : State.SameFaults { s with part := .draining } b := by
    rw [← hb, ← he]; exact ⟨rfl, rfl, rfl, rfl⟩
  obtain ⟨hfaults, hslots⟩ := foldl_discardFilling_of_same (List.nodup_finRange 64) hsame hstart
  obtain ⟨sl, lg, al, hd⟩ := b.discardAllFilling_only
  have hfold : (List.finRange 64).foldl State.discardFilling b = { b with slots := sl, log := lg, alert := al } := hd
  rw [hfold] at hfaults hslots
  obtain ⟨-, -, hlog, halert⟩ := hfaults
  have hbslots : b.slots = s.slots := by rw [← hb, ← he]; rfl
  refine ⟨pa, pb, sl, ?_, fun k => ?_, fun p => ?_⟩
  · have hlg : lg = discarded.log := hlog
    have hal : al = discarded.alert := halert
    rw [henter, hd, hlg, hal, ← hb, ← he]
    rfl
  · refine (hslots k).trans ?_
    simp only [hbslots]
    by_cases hk : s.slots[k].state = .filling
    · obtain ⟨r, x, -, hx, hlink⟩ := hfilling k hk
      rw [if_pos hk, if_pos ⟨r, List.mem_finRange r, hlink, by rw [hx]; rfl⟩]
    · rw [if_neg hk, if_neg]
      rintro ⟨r, -, hlink, -⟩
      exact hk (State.slotIn_eq_some hlink).1
  · have hport : (s.enterDraining c).port p = ((e.withdrawWaiting.commitWaitToLoad .a).commitWaitToLoad .b).port p := by
      rw [henter, hd, hw, ← hb]
      cases p <;> rfl
    have hep : e.port p = s.port p := by
      rw [← he]
      cases p <;> rfl
    rw [hport, State.port_withdrawn, hep, ← he]
    rfl

end Sys2Proof.Machine
end

section
/-! The Session Tables' form (O7): first what each operation on a table makes of it, then every command as a sequence of
them. -/

namespace Sys2Proof.Machine

/-! ## A table's entries (R39, R40) -/

theorem sessionIn_eq_none {t : List Session} {r : Fin 64} : sessionIn t r = none ↔ ∀ e ∈ t, e.region ≠ r := by
  simp [sessionIn]

/-- A table with a place for a new entry: a full one has given up its oldest (R46). -/
def madeRoom (t : List Session) : List Session := if 8 ≤ t.length then t.tail else t

theorem madeRoom_sublist (t : List Session) : (madeRoom t).Sublist t := by
  unfold madeRoom
  split
  · exact t.tail_sublist
  · exact .refl t

theorem tableSound_nil : tableSound [] := ⟨Nat.zero_le _, List.nodup_nil⟩

/-- Entries that leave a table leave it sound (R46, R47). -/
theorem tableSound.sublist {t t' : List Session} (h : tableSound t) (hsub : t'.Sublist t) : tableSound t' := by
  obtain ⟨hlen, hnodup⟩ := h
  exact ⟨hsub.length_le.trans hlen, hnodup.sublist (hsub.map _)⟩

/-- The states of the entries do not matter (R51, R59). -/
theorem tableSound.of_regions {t t' : List Session} (h : tableSound t)
    (hmap : t'.map Session.region = t.map Session.region) : tableSound t' := by
  obtain ⟨hlen, hnodup⟩ := h
  have hlength : t'.length = t.length := by simpa using congrArg List.length hmap
  exact ⟨hlength ▸ hlen, hmap ▸ hnodup⟩

theorem map_region_breakIn (t : List Session) (r : Fin 64) : (breakIn t r).map Session.region = t.map Session.region := by
  unfold breakIn
  rw [List.map_map]
  refine List.map_congr_left fun e _ => ?_
  rw [Function.comp_apply]
  split <;> rfl

theorem map_region_breakAll (t : List Session) : (breakAll t).map Session.region = t.map Session.region := by
  unfold breakAll
  rw [List.map_map]
  rfl

/-- A new region's entry joins a table that has made room for it (R45, R46). -/
theorem tableSound.append_new {t : List Session} {e : Session} (h : tableSound t) (hnew : sessionIn t e.region = none) :
    tableSound (madeRoom t ++ [e]) := by
  obtain ⟨hlen, hnodup⟩ := h.sublist (madeRoom_sublist t)
  have hroom : (madeRoom t).length < 8 := by
    have := h.1
    unfold madeRoom
    split
    · rw [List.length_tail]; omega
    · omega
  have habsent : ∀ d ∈ madeRoom t, d.region ≠ e.region := fun d hd =>
    sessionIn_eq_none.1 hnew d ((madeRoom_sublist t).subset hd)
  refine ⟨by simpa using hroom, ?_⟩
  rw [List.map_append, List.nodup_append]
  exact ⟨hnodup, List.nodup_singleton _, by simpa using habsent⟩

theorem State.sessionsSound_iff (s : State) : s.sessionsSound ↔ ∀ p, tableSound (s.sessions p) :=
  ⟨fun ⟨ha, hb⟩ p => by cases p <;> assumption, fun h => ⟨h .a, h .b⟩⟩

/-! ## Keeping the tables -/

/-- Both tables. -/
def State.tables (s : State) : List Session × List Session := (s.sessionsA, s.sessionsB)

def State.KeepsTables (s t : State) : Prop := s.sessionsSound → t.sessionsSound

theorem State.KeepsTables.refl (s : State) : s.KeepsTables s := id

theorem State.KeepsTables.trans {s t u : State} (h : s.KeepsTables t) (h' : t.KeepsTables u) : s.KeepsTables u :=
  fun hs => h' (h hs)

/-- The form depends on the tables alone. -/
theorem State.KeepsTables.of_tables {s t : State} (h : t.tables = s.tables) : s.KeepsTables t := by
  obtain ⟨ha, hb⟩ : t.sessionsA = s.sessionsA ∧ t.sessionsB = s.sessionsB := by simpa [State.tables] using h
  unfold State.KeepsTables State.sessionsSound
  rw [ha, hb]
  exact id

/-- An operation after one that leaves the tables. -/
theorem State.KeepsTables.after_tables {s t u : State} (h' : t.KeepsTables u) (h : t.tables = s.tables) :
    s.KeepsTables u := (State.KeepsTables.of_tables h).trans h'

/-- An operation before one that leaves the tables. -/
theorem State.KeepsTables.then_tables {s t u : State} (h : s.KeepsTables t) (h' : u.tables = t.tables) :
    s.KeepsTables u := h.trans (.of_tables h')

/-- An operation that a command makes when its event is there to be taken (log 1). -/
theorem State.KeepsTables.ite {s t : State} {c : Prop} [Decidable c] (h : s.KeepsTables t) :
    s.KeepsTables (if c then t else s) := by
  split
  · exact h
  · exact .refl s

/-- An operation that empties both tables (R41, R148, R153). -/
theorem State.KeepsTables.of_emptied {s t : State} (h : t.tables = ([], [])) : s.KeepsTables t := by
  obtain ⟨ha, hb⟩ : t.sessionsA = [] ∧ t.sessionsB = [] := by simpa [State.tables] using h
  intro _
  unfold State.sessionsSound
  rw [ha, hb]
  exact ⟨tableSound_nil, tableSound_nil⟩

theorem State.setSessions_keepsTables {s : State} {p : Port} {t : List Session}
    (h : tableSound (s.sessions p) → tableSound t) : s.KeepsTables (s.setSessions p t) := by
  rintro ⟨ha, hb⟩
  cases p
  · exact ⟨h ha, hb⟩
  · exact ⟨ha, h hb⟩

/-! ### Operations that leave the tables -/

@[simp] theorem State.endAccess_tables (s : State) (p : Port) (d : Option Word) : (s.endAccess p d).tables = s.tables := by
  simp [State.tables]

@[simp] theorem State.hold_tables (s : State) (p : Port) (c : WaitCause) (k : AccessClass) :
    (s.hold p c k).tables = s.tables := by
  simp [State.tables]

@[simp] theorem State.updRegion_tables (s : State) (r : Fin 64) (f : Region → Region) :
    (s.updRegion r f).tables = s.tables := by
  simp [State.tables]

@[simp] theorem State.noteDeferral_tables (s : State) (r : Fin 64) : (s.noteDeferral r).tables = s.tables :=
  s.updRegion_tables r _

@[simp] theorem State.raise_tables (s : State) (d : FaultDetail) : (s.raise d).tables = s.tables := by
  obtain ⟨l, a, h⟩ := s.raise_only d
  rw [h]; rfl

@[simp] theorem State.enqueue_tables (s : State) (i : Item) : (s.enqueue i).tables = s.tables := by
  obtain ⟨l, h⟩ := s.enqueue_only i
  rw [h]; rfl

theorem State.serveWaiting_tables (s : State) : s.serveWaiting.tables = s.tables := by
  obtain ⟨w, x, q, l, a, b, h⟩ := s.serveWaiting_only
  rw [h]; rfl

/-! ### The Session Tables -/

/-- A full table gives up its oldest entry, whose region no longer defers (R46). -/
theorem State.evict_of_full {s : State} {p : Port} {e : Session} {rest : List Session} (ht : s.sessions p = e :: rest)
    (hfull : 8 ≤ (s.sessions p).length) : s.evict p = (s.setSessions p rest).noteDeferral e.region := by
  have hlimit : sessionLimit ≤ (s.sessions p).length := hfull
  simp only [State.evict, ht] at hlimit ⊢
  rw [if_pos hlimit]

/-- A table with a place left gives up none. -/
theorem State.evict_of_room {s : State} {p : Port} (hroom : ¬ 8 ≤ (s.sessions p).length) : s.evict p = s := by
  have hlimit : ¬ sessionLimit ≤ (s.sessions p).length := hroom
  unfold State.evict
  split
  · rfl
  · rw [if_neg hlimit]

/-- The tables after room is made in one (R46). -/
theorem State.evict_tables (s : State) (p : Port) :
    (s.evict p).tables = (s.setSessions p (madeRoom (s.sessions p))).tables := by
  by_cases hfull : 8 ≤ (s.sessions p).length
  · obtain ⟨e, rest, ht⟩ := List.exists_cons_of_length_pos (show 0 < (s.sessions p).length by omega)
    rw [State.evict_of_full ht hfull, State.noteDeferral_tables, madeRoom, if_pos hfull, ht, List.tail_cons]
  · rw [State.evict_of_room hfull, madeRoom, if_neg hfull]
    cases p <;> rfl

theorem State.sessions_evict (s : State) (p : Port) : (s.evict p).sessions p = madeRoom (s.sessions p) := by
  obtain ⟨ha, hb⟩ := Prod.ext_iff.1 (s.evict_tables p)
  rw [State.sessions_of_tables (t := s.evict p) ha hb, State.sessions_setSessions_self]

/-- The tables after a session opens (R45, R46). -/
theorem State.openEvicted_tables (s : State) (p : Port) (r : Fin 64) :
    ((s.evict p).openSession p r).tables =
      (s.setSessions p (madeRoom (s.sessions p) ++ [{ region := r, state := .open }])).tables := by
  obtain ⟨ha, hb⟩ := Prod.ext_iff.1 (s.evict_tables p)
  rw [State.openSession, State.noteDeferral_tables, s.sessions_evict]
  cases p
  · exact congrArg (Prod.mk _) hb
  · exact congrArg (Prod.mk · _) ha

theorem State.takeReaderHeader_keepsTables (s : State) (p : Port) (r : Fin 64) :
    s.KeepsTables (s.takeReaderHeader p r) := by
  unfold State.takeReaderHeader
  split
  · split
    · refine State.KeepsTables.then_tables ?_ (State.endAccess_tables _ _ _)
      exact State.KeepsTables.then_tables (State.setSessions_keepsTables fun h => h.sublist List.filter_sublist)
        (State.noteDeferral_tables _ _)
    · rename_i hnone
      have hopen : s.KeepsTables ((s.evict p).openSession p r) :=
        State.KeepsTables.then_tables (State.setSessions_keepsTables fun h => h.append_new hnone)
          (s.openEvicted_tables p r)
      exact hopen.then_tables (State.endAccess_tables _ _ _)
  · exact .refl s

theorem State.readerHeaderRead_keepsTables (s : State) (p : Port) (r : Fin 64) :
    s.KeepsTables (s.readerHeaderRead p r) := by
  unfold State.readerHeaderRead
  split
  · exact .of_tables (by simp)
  · exact s.takeReaderHeader_keepsTables p r

theorem State.releaseReader_keepsTables (s : State) (p : Port) (r : Fin 64) : s.KeepsTables (s.releaseReader p r) := by
  unfold State.releaseReader
  split
  · split
    · exact s.takeReaderHeader_keepsTables p r
    · exact .ite (.of_tables (by simp))
  · exact .refl s

theorem State.breakSession_keepsTables (s : State) (r : Fin 64) : s.KeepsTables (s.breakSession r) := by
  unfold State.breakSession
  split
  · exact State.setSessions_keepsTables fun h => h.of_regions (map_region_breakIn _ r)
  · exact .refl s

theorem State.breakSessions_keepsTables (s : State) : s.KeepsTables s.breakSessions := fun ⟨ha, hb⟩ =>
  ⟨ha.of_regions (map_region_breakAll _), hb.of_regions (map_region_breakAll _)⟩

theorem State.expireHold_keepsTables (s : State) (r : Fin 64) : s.KeepsTables (s.expireHold r) :=
  (s.breakSession_keepsTables r).then_tables (State.updRegion_tables _ _ _)

/-! ### The Commit Engine -/

theorem State.startCommit_keepsTables (s : State) (k : Fin 12) (r : Fin 64) (x : Region) :
    s.KeepsTables (s.startCommit k r x) := by
  have withdrawn (t : State) (p : Port) (b : Addr) :
      (((t.withdrawReader p r).holdScan r).withdrawTorn b).tables = t.tables := by
    obtain ⟨pa, pb, h⟩ := t.withdrawReader_only p r
    obtain ⟨n, h'⟩ := (t.withdrawReader p r).holdScan_only r
    obtain ⟨g, h''⟩ := ((t.withdrawReader p r).holdScan r).withdrawTorn_only b
    rw [h'', h', h]; rfl
  unfold State.startCommit
  refine State.KeepsTables.then_tables ?_ (withdrawn _ _ _)
  exact State.KeepsTables.after_tables (State.breakSession_keepsTables _ r) (State.updRegion_tables _ _ _)

theorem State.startSelected_keepsTables (s : State) : s.KeepsTables s.startSelected := by
  unfold State.startSelected
  split
  · split
    · split
      · exact s.startCommit_keepsTables _ _ _
      · exact .refl s
    · exact .refl s
  · exact .refl s

theorem State.tellCompletion_keepsTables (s : State) (r : Fin 64) : s.KeepsTables (s.tellCompletion r) := by
  have timed (t : State) : ((t.deadlineCompletion r).diagCompletion r).tables = t.tables := by
    obtain ⟨l, g, h⟩ := t.deadlineCompletion_only r
    obtain ⟨q, n, h'⟩ := (t.deadlineCompletion r).diagCompletion_only r
    rw [h', h]; rfl
  have released : s.KeepsTables ((s.serveWaiting.releaseReader .a r).releaseReader .b r) :=
    ((State.releaseReader_keepsTables _ .a r).after_tables s.serveWaiting_tables).trans
      (State.releaseReader_keepsTables _ .b r)
  exact released.then_tables (timed _)

theorem State.commitWriteDone_keepsTables (s : State) : s.KeepsTables s.commitWriteDone := by
  unfold State.commitWriteDone State.finishCommit
  dsimp only
  split
  · split
    · have marked (f : Region → Region) (r : Fin 64) (k : Fin 12) :
          ({ (s.updRegion r f).setSlot k Slot.empty with commit := none } : State).tables = s.tables :=
        s.updRegion_tables r f
      split
      · exact .of_tables (marked _ _ _)
      · exact (State.tellCompletion_keepsTables _ _).after_tables (marked _ _ _)
    · exact .of_tables rfl
  · exact .refl s

/-! ### The Access Classifier -/

theorem State.regionAccess_keepsTables (s : State) (p : Port) (a : Access) (r : Fin 64) (x : Region) :
    s.KeepsTables (s.regionAccess p a r x) := by
  unfold State.regionAccess
  dsimp only
  split
  · refine .of_tables ?_
    split
    · split
      · obtain ⟨w, sl, q, l, pa, pb, h⟩ := s.ownerSeal_only p r
        rw [h]; rfl
      · obtain ⟨w, sl, pa, pb, h⟩ := s.ownerBodyWrite_only p r (x.entry.offset a.addr) a.value
        rw [h]; rfl
    · split
      · obtain ⟨pa, pb, h⟩ := s.ownerHeaderRead_only p r
        rw [h]; rfl
      · obtain ⟨pa, pb, h⟩ := s.ownerBodyRead_only p r (x.entry.offset a.addr)
        rw [h]; rfl
  · split
    · obtain ⟨pa, pb, g, al, h⟩ := s.refuse_only p a.addr a.value
      rw [h]; exact .of_tables rfl
    · split
      · exact s.readerHeaderRead_keepsTables p r
      · exact .of_tables (s.hold_tables _ _ _)

theorem State.statusAccess_tables (s : State) (p : Port) (a : Access) : (s.statusAccess p a).tables = s.tables := by
  unfold State.statusAccess
  split
  · obtain ⟨pa, pb, h⟩ := s.statusRead_only p (statusWord a.addr)
    rw [h]; rfl
  · split
    · exact s.hold_tables _ _ _
    · obtain ⟨pa, pb, g, al, h⟩ := s.statusWrite_only p a.addr a.value
      rw [h]; rfl

theorem State.controlAccess_tables (s : State) (p : Port) (a : Access) : (s.controlAccess p a).tables = s.tables := by
  have guarded :
      (if protectedWrite p a.dir a.addr then s.refuse p a.addr a.value else s.passToMemory p).tables = s.tables := by
    split
    · obtain ⟨pa, pb, g, al, h⟩ := s.refuse_only p a.addr a.value
      rw [h]; rfl
    · exact s.hold_tables _ _ _
  unfold State.controlAccess
  cases s.part with
  | active | draining => exact guarded
  | loading | bypass | pfail => exact s.hold_tables _ _ _

theorem State.lowAccess_keepsTables (s : State) (p : Port) (a : Access) : s.KeepsTables (s.lowAccess p a) := by
  have waits (c : WaitCause) (k : AccessClass) : s.KeepsTables (s.hold p c k) := .of_tables (s.hold_tables _ _ _)
  unfold State.lowAccess
  cases s.part with
  | loading | bypass | pfail => exact waits _ _
  | draining => dsimp only; split <;> exact waits _ _
  | active =>
    dsimp only
    split
    · split
      · exact s.regionAccess_keepsTables _ _ _ _
      · exact waits _ _
    · exact waits _ _

theorem State.dispatch_keepsTables (s : State) (p : Port) (a : Access) : s.KeepsTables (s.dispatch p a) := by
  unfold State.dispatch
  split
  · obtain ⟨pa, pb, g, al, h⟩ := s.endInPfail_only p a
    rw [h]; exact .of_tables rfl
  · split
    · exact .of_tables (s.statusAccess_tables p a)
    · split
      · exact .of_tables (s.controlAccess_tables p a)
      · exact s.lowAccess_keepsTables p a

theorem State.arrive_keepsTables (s : State) (p : Port) (d : Dir) (a : Addr) (v : Word) :
    s.KeepsTables (s.arrive p d a v) :=
  (State.dispatch_keepsTables _ p _).after_tables (by simp [State.tables])

theorem State.offer_keepsTables (s : State) (p : Port) (d : Dir) (a : Addr) (v : Word) :
    s.KeepsTables (s.offer p d a v) := by
  have strobed : (s.strobe p).tables = s.tables := by simp [State.tables]
  unfold State.offer
  split
  · exact .refl s
  · split
    · refine State.KeepsTables.after_tables (.of_tables ?_) strobed
      unfold State.record
      split
      · rfl
      · simp [State.tables]
    · split
      · exact .of_tables strobed
      · exact (State.arrive_keepsTables _ p d a v).after_tables strobed

theorem State.takeAfresh_keepsTables (s : State) (p : Port) : s.KeepsTables (s.takeAfresh p) := by
  unfold State.takeAfresh
  split
  · exact .ite (s.dispatch_keepsTables p _)
  · exact .refl s

theorem State.releaseLoad_keepsTables (s : State) : s.KeepsTables s.releaseLoad := by
  have both (t : State) (p q : Port) (h : t.tables = s.tables) : s.KeepsTables ((t.takeAfresh p).takeAfresh q) :=
    ((t.takeAfresh_keepsTables p).trans (State.takeAfresh_keepsTables _ q)).after_tables h
  unfold State.releaseLoad
  dsimp only
  split
  · split
    · exact both _ .a .b rfl
    · exact both _ .b .a rfl
  · exact both _ .a .b rfl

/-! ### The Table Loader -/

theorem State.shadowReadDone_tables (s : State) (w : Word) : (s.shadowReadDone w).tables = s.tables := by
  unfold State.shadowReadDone State.endShadowRead
  dsimp only
  split
  · split <;> rfl
  · rfl

theorem State.tornScanDone_tables (s : State) (i : Fin 64) (rest : List (Fin 64)) (found : List Found) (w : Word) :
    (s.tornScanDone i rest found w).tables = s.tables := by
  unfold State.tornScanDone
  dsimp only
  split
  · exact (State.enqueue_tables _ _).trans (State.raise_tables _ _)
  · rfl

theorem State.returnToOrigin_tables (s : State) : s.returnToOrigin.tables = s.tables := by
  unfold State.returnToOrigin
  split <;> rfl

theorem State.loaderDone_keepsTables (s : State) (w : Word) : s.KeepsTables (s.loaderDone w) := by
  unfold State.loaderDone State.loaderAdvance
  split
  · exact .refl s
  · split
    · exact .refl s
    · exact .of_tables rfl
    · unfold State.startUpDone
      split <;> exact .of_tables rfl
    · exact .of_tables (s.shadowReadDone_tables w)
    · exact .of_tables (s.tornScanDone_tables _ _ _ _)
    · exact State.KeepsTables.trans (.of_emptied rfl) (State.releaseLoad_keepsTables _)
    · exact (State.releaseLoad_keepsTables _).after_tables ((State.returnToOrigin_tables _).trans (s.raise_tables _))
    · exact State.KeepsTables.trans (.of_emptied rfl) (State.releaseLoad_keepsTables _)

theorem State.enterDraining_keepsTables (s : State) (c : Command) : s.KeepsTables (s.enterDraining c) := by
  generalize he : ({ s with part := .draining, ldr := { s.ldr with command := some c }, diagQueue := [] } : State) = e
  obtain ⟨pa, pb, hw⟩ := e.withdrawn_only
  have withdrawn : s.KeepsTables ((e.withdrawWaiting.commitWaitToLoad .a).commitWaitToLoad .b) :=
    .of_tables (by rw [hw, ← he]; rfl)
  have discarded (t : State) : t.discardAllFilling.tables = t.tables := by
    obtain ⟨x, l, a, h⟩ := t.discardAllFilling_only
    rw [h]; rfl
  unfold State.enterDraining
  dsimp only
  rw [he]
  exact (withdrawn.trans (State.breakSessions_keepsTables _)).then_tables (discarded _)

theorem State.takeCommand_keepsTables (s : State) (c : Command) (waited : Bool) :
    s.KeepsTables (s.takeCommand c waited) := by
  have busy : s.KeepsTables s.raiseBusy := .of_tables (s.raise_tables _)
  unfold State.takeCommand
  split
  · exact busy
  · split
    · exact .of_tables rfl
    · exact .refl s
    · exact s.enterDraining_keepsTables _
    · exact busy
    · exact busy
    · exact busy

theorem State.hostDone_keepsTables (s : State) (p : Port) (c : Cycle) : s.KeepsTables (s.hostDone p c) := by
  have answered (d : Option Word) : (if s.part = .pfail then s else s.endAccess p d).tables = s.tables := by
    split
    · rfl
    · simp
  unfold State.hostDone
  dsimp only
  split
  · exact (State.takeCommand_keepsTables _ _ _).after_tables (answered _)
  · exact .of_tables (answered _)

theorem State.endDrain_tables (s : State) : s.endDrain.tables = s.tables := by
  unfold State.endDrain
  dsimp only
  split <;> rfl

/-! ### The memory port and the lines -/

theorem State.completeCycle_keepsTables (s : State) (c : Cycle) : s.KeepsTables (s.completeCycle c) := by
  unfold State.completeCycle
  dsimp only
  refine State.KeepsTables.after_tables (t := { s with mem := s.memCarried, cycle := none }) ?_ rfl
  split
  · exact State.hostDone_keepsTables _ _ c
  · exact State.commitWriteDone_keepsTables _
  · exact State.loaderDone_keepsTables _ _
  · obtain ⟨l, h⟩ := State.writerAdvance_only { s with mem := s.memCarried, cycle := none } c.data
    rw [h]; exact .of_tables rfl
  · obtain ⟨n, g, a, h⟩ := State.diagDone_only { s with mem := s.memCarried, cycle := none } c.data
    rw [h]; exact .of_tables rfl

theorem State.takeFall_tables (s : State) : s.takeFall.tables = s.tables := by
  unfold State.takeFall
  split
  · rfl
  · obtain ⟨pins, ld, l, pa, pb, w, sl, q, g, al, h⟩ := s.enterPfail_only
    rw [h]; rfl

theorem State.takeDueFall_tables (s : State) : s.takeDueFall.tables = s.tables := by
  unfold State.takeDueFall
  split
  · exact s.takeFall_tables
  · rfl

theorem State.completeIf_keepsTables (s : State) (atHand : Bool) : s.KeepsTables (s.completeIf atHand) := by
  refine .ite (State.KeepsTables.after_tables ?_ s.takeDueFall_tables)
  unfold State.complete
  dsimp only
  split
  · exact State.completeCycle_keepsTables _ _
  · exact .refl _

theorem State.resetLow_keepsTables (s : State) (periods : Nat) : s.KeepsTables (s.resetLow periods) := by
  unfold State.resetLow
  split
  · exact .refl s
  · split
    · exact .of_emptied rfl
    · exact .ite (.of_tables s.takeDueFall_tables)

theorem State.takeRecorded_keepsTables (s : State) (p : Port) (q : Option Recorded) :
    s.KeepsTables (s.takeRecorded p q) := by
  unfold State.takeRecorded
  split
  · exact s.arrive_keepsTables p _ _ _
  · exact .refl s

/-- The release leaves empty tables to the accesses that were recorded. -/
theorem State.release_keepsTables (s : State) (pfailLow : Bool) : s.KeepsTables (s.release pfailLow) := by
  have both (t : State) (p q : Port) (ra rb : Option Recorded) (h : t.tables = ([], [])) :
      s.KeepsTables ((t.takeRecorded p ra).takeRecorded q rb) :=
    State.KeepsTables.trans (.of_emptied h)
      ((t.takeRecorded_keepsTables p ra).trans (State.takeRecorded_keepsTables _ q rb))
  unfold State.release
  dsimp only
  split
  · split
    · exact both _ .a .b _ _ rfl
    · exact both _ .b .a _ _ rfl
  · exact both _ .a .b _ _ rfl

theorem State.endShortPulse_tables (s : State) (pfailLow : Bool) : (s.endShortPulse pfailLow).tables = s.tables := by
  unfold State.endShortPulse
  dsimp only
  split
  · exact State.takeFall_tables _
  · rfl

theorem State.pfailFalls_tables (s : State) : s.pfailFalls.tables = s.tables := by
  unfold State.pfailFalls
  dsimp only
  split
  · exact State.takeFall_tables _
  · rfl

theorem State.loseSupply_keepsTables (s : State) : s.KeepsTables s.loseSupply := by
  unfold State.loseSupply
  dsimp only
  split
  · split <;> exact .of_emptied rfl
  · exact .of_emptied rfl

/-! ## Every command and every step -/

theorem exec_keepsTables (c : Instr) (s : State) : ∃ t, exec c s = .next t ∧ s.KeepsTables t := by
  cases c with
  | accessArrival p oe we a v =>
    refine ⟨_, rfl, ?_⟩
    split
    · exact s.offer_keepsTables _ _ _ _
    · split
      · exact s.offer_keepsTables _ _ _ _
      · exact .ite (.of_tables (by simp [State.tables]))
  | alertMaskWrite v | acknowledge v | alertHoldoffWrite v | faultConsumerWrite v | timeLowRead p =>
    exact ⟨_, rfl, s.offer_keepsTables _ _ _ _⟩
  | statusBlockWriteRefused p w v =>
    refine ⟨_, rfl, ?_⟩
    split
    · exact .refl s
    · exact s.offer_keepsTables _ _ _ _
  | loadCommand | unloadCommand | startUpReadsQualify | memoryCycleCompletion | commitCompletion | scanEnd | faultRecordEnd
  | writeBackEnd | shadowReadEnd | loadSuccess | loadFailure | unloadEnd =>
    exact ⟨_, rfl, s.completeIf_keepsTables _⟩
  | resetNFalling n => exact ⟨_, rfl, s.resetLow_keepsTables n⟩
  | shortResetPulseEnd low => exact ⟨_, rfl, .ite (.of_tables (s.endShortPulse_tables low))⟩
  | resetNRelease low =>
    exact ⟨_, rfl, (State.KeepsTables.ite (s.resetLow_keepsTables _)).trans (.ite (State.release_keepsTables _ low))⟩
  | pfailNFalling => exact ⟨_, rfl, .ite (.of_tables s.pfailFalls_tables)⟩
  | holdTimerExpiry r => exact ⟨_, rfl, .ite (s.expireHold_keepsTables r)⟩
  | deadlineExpiry r =>
    obtain ⟨l, g, a, q, h⟩ := s.expireDeadline_only r
    exact ⟨_, rfl, .ite (by rw [h]; exact .of_tables rfl)⟩
  | waitLimitExpiry p =>
    refine ⟨_, rfl, .ite ?_⟩
    split
    · split
      · rename_i a _ _ c _
        obtain ⟨w, pa, pb, g, al, h⟩ := s.expireWait_only p a c
        rw [h]; exact .of_tables rfl
      · exact .refl s
    · exact .refl s
  | holdoffExpiry => exact ⟨_, rfl, .ite (.of_tables rfl)⟩
  | arbiterGrant =>
    obtain ⟨c, k, a, b, h⟩ := s.grant_only
    exact ⟨_, rfl, .ite (by rw [h]; exact .of_tables rfl)⟩
  | commitStart => exact ⟨_, rfl, .ite s.startSelected_keepsTables⟩
  | scanStart =>
    obtain ⟨q, c, h⟩ := s.beginScan_only
    exact ⟨_, rfl, .ite (by rw [h]; exact .of_tables rfl)⟩
  | drainEnd => exact ⟨_, rfl, .ite (.of_tables s.endDrain_tables)⟩
  | lossOfSupply => exact ⟨_, rfl, .ite s.loseSupply_keepsTables⟩

theorem step_keepsTables (s : State) : ∃ t, step s = .next t ∧ s.KeepsTables t := by
  have taken (c : Instr) (t : State) (ht : t.tables = s.tables) : ∃ u, exec c t = .next u ∧ s.KeepsTables u := by
    obtain ⟨u, hu, h⟩ := exec_keepsTables c t
    exact ⟨u, hu, h.after_tables ht⟩
  unfold step
  split
  · exact taken _ _ rfl
  · unfold State.idleEvent
    cases s.dueEvents with
    | nil =>
      refine ⟨s.tick, rfl, .of_tables ?_⟩
      unfold State.tick
      split <;> rfl
    | cons c rest =>
      cases rest with
      | nil => exact taken _ _ rfl
      | cons d rest => exact taken _ _ rfl

/-- Settles O7: a step takes one command, and of what a command does to a table only the new entry of a session that opens
could break the form; the table has made room, and has no entry of that region. -/
theorem stepKeepsSessionTablesSound : Obligations.StepKeepsSessionTablesSound := by
  intro s t hs hstep
  obtain ⟨u, hu, h⟩ := step_keepsTables s
  obtain rfl : u = t := Host.Outcome.next.inj (hu.symm.trans hstep)
  exact h hs

end Sys2Proof.Machine
end

section
/-! The reader's accesses to a region (O31 to O33) and the expiry of its hold timer (O34). -/

namespace Sys2Proof.Machine

/-! ## Sessions and region records under the state's updates -/

theorem State.setSessions_endAccess (s : State) (p : Port) (t : List Session) (d : Option Word) :
    (s.setSessions p t).endAccess p d = (s.endAccess p d).setSessions p t := by
  cases p <;> rfl

theorem State.region?_setSessions (s : State) (p : Port) (t : List Session) (q : Fin 64) :
    (s.setSessions p t).region? q = s.region? q := State.region?_of_live (s.setSessions_live p t) q

theorem State.sealedLink_setSessions (s : State) (p : Port) (t : List Session) (q : Fin 64) :
    (s.setSessions p t).sealedLink q = s.sealedLink q := State.slotIn_of_slots (s.setSessions_slots p t) _ q

theorem State.withRegion_conds (s : State) (r : Fin 64) (x : Region) :
    (s.withRegion r x).live.map Live.conds = s.live.map Live.conds := by
  unfold State.withRegion
  rw [Option.map_map]
  rfl

/-! ## The reader's header read (R44 to R47) -/

/-- The region's record learns that no session of its reader's is on it: its hold timer stops (R67, R68). -/
theorem State.noteDeferral_of_noSession {s : State} {r : Fin 64} {x : Region} (hx : s.region? r = some x)
    (hnone : sessionIn (s.sessions x.entry.writer.other) r = none) :
    s.noteDeferral r = s.withRegion r { x with holdTimer := none } := by
  rw [State.noteDeferral_eq hx, hnone]
  simp [Region.holdWhileSealed]

/-- The record of a region on which its reader has just opened a session (R65, R66). -/
def State.opened (s : State) (r : Fin 64) (x : Region) : Region :=
  { x with
    holdTimer :=
      if (s.sealedLink r).isSome then x.holdWhileSealed (some { region := r, state := .open }) s.time else none }

section
variable {s : State} {p : Port} {r : Fin 64} {x : Region}

/-- A session that closes leaves its table, and its region's hold timer stops (R47, R67). -/
theorem State.closeSession_eq (hx : s.region? r = some x) (hw : x.entry.writer = p.other) :
    s.closeSession p r =
      (s.setSessions p ((s.sessions p).filter fun e => e.region != r)).withRegion r { x with holdTimer := none } := by
  refine State.noteDeferral_of_noSession ((s.region?_setSessions p _ r).trans hx) ?_
  rw [hw, Port.other_other, State.sessions_setSessions_self, sessionIn_eq_none]
  intro e he
  simpa using (List.mem_filter.1 he).2

theorem State.takeReaderHeader_of_session {e : Session} (hx : s.region? r = some x) (hw : x.entry.writer = p.other)
    (he : sessionIn (s.sessions p) r = some e) :
    s.takeReaderHeader p r =
      (((s.endAccess p (some (x.readValue (closeResult e x.header) false))).setSessions p
        ((s.sessions p).filter fun f => f.region != r)).withRegion r { x with holdTimer := none }) := by
  simp only [State.takeReaderHeader, hx, he]
  rw [State.closeSession_eq hx hw, State.withRegion_endAccess, State.setSessions_endAccess]

/-- A session that opens joins its table, and its region's hold timer runs when the region comes to defer (R45, R66). -/
theorem State.openSession_eq (hx : s.region? r = some x) (hw : x.entry.writer = p.other)
    (hnone : sessionIn (s.sessions p) r = none) :
    s.openSession p r =
      (s.setSessions p (s.sessions p ++ [{ region := r, state := .open }])).withRegion r (s.opened r x) := by
  have hlast : sessionIn (s.sessions p ++ [{ region := r, state := .open }]) r = some { region := r, state := .open } := by
    unfold sessionIn at hnone ⊢
    simp [List.find?_append, hnone]
  rw [State.openSession, State.noteDeferral_eq ((s.region?_setSessions p _ r).trans hx), hw, Port.other_other,
    State.sessions_setSessions_self, hlast, State.sealedLink_setSessions, State.setSessions_time]
  rfl

/-- The table of `p` is full and its oldest entry is of region `q` (R46). -/
abbrev State.givesUp (s : State) (p : Port) (q : Fin 64) : Prop :=
  8 ≤ (s.sessions p).length ∧ (s.sessions p).head?.map Session.region = some q

/-- Room made in a table: the oldest entry of a full one leaves it, and its region's hold timer stops (R46, R68). -/
theorem State.evict_eq (hsound : tableSound (s.sessions p))
    (howned : ∀ e ∈ s.sessions p, ∃ y, s.region? e.region = some y ∧ y.entry.writer = p.other) :
    ∃ l, s.evict p = { s.setSessions p (madeRoom (s.sessions p)) with live := l }
      ∧ l.map Live.conds = s.live.map Live.conds
      ∧ ∀ q, ({ s with live := l } : State).region? q =
          if s.givesUp p q then
            (s.region? q).map fun y => { y with holdTimer := none }
          else s.region? q := by
  by_cases hfull : 8 ≤ (s.sessions p).length
  · obtain ⟨e, rest, ht⟩ := List.exists_cons_of_length_pos (show 0 < (s.sessions p).length by omega)
    obtain ⟨y, hy, hyw⟩ := howned e (by simp [ht])
    have hgone : sessionIn rest e.region = none := by
      obtain ⟨-, hnodup⟩ := hsound
      rw [ht, List.map_cons, List.nodup_cons] at hnodup
      exact sessionIn_eq_none.2 fun d hd h => hnodup.1 (h ▸ List.mem_map_of_mem hd)
    refine ⟨(s.withRegion e.region { y with holdTimer := none }).live, ?_, s.withRegion_conds _ _, fun q => ?_⟩
    · rw [State.evict_of_full ht hfull, State.noteDeferral_of_noSession ((s.region?_setSessions p _ _).trans hy)
        (by rw [hyw, Port.other_other, State.sessions_setSessions_self, hgone]), madeRoom, if_pos hfull, ht]
      cases p <;> rfl
    · refine (State.region?_withRegion hy _ q).trans ?_
      by_cases hq : q = e.region
      · subst hq
        rw [if_pos rfl, if_pos ⟨hfull, by rw [ht]; rfl⟩, hy, Option.map_some]
      · simp [ht, hq, Ne.symm hq]
  · refine ⟨s.live, ?_, rfl, fun q => by rw [if_neg fun h => hfull h.1]⟩
    rw [State.evict_of_room hfull, madeRoom, if_neg hfull]
    cases p <;> rfl

theorem State.takeReaderHeader_of_noSession (hx : s.region? r = some x) (hw : x.entry.writer = p.other)
    (hnone : sessionIn (s.sessions p) r = none) (hsound : tableSound (s.sessions p))
    (howned : ∀ e ∈ s.sessions p, ∃ y, s.region? e.region = some y ∧ y.entry.writer = p.other) :
    ∃ l, s.takeReaderHeader p r =
        { (s.endAccess p (some (x.readValue .open false))).setSessions p
            (madeRoom (s.sessions p) ++ [{ region := r, state := .open }]) with live := l }
      ∧ l.map Live.conds = s.live.map Live.conds
      ∧ ∀ q, ({ s with live := l } : State).region? q =
          if q = r then some (s.opened r x)
          else if s.givesUp p q then
            (s.region? q).map fun y => { y with holdTimer := none }
          else s.region? q := by
  obtain ⟨l, hevict, hconds, hregions⟩ := State.evict_eq hsound howned
  have hkept : ¬ s.givesUp p r := by
    rintro ⟨-, hhead⟩
    obtain ⟨e, he, hr⟩ := Option.map_eq_some_iff.1 hhead
    exact sessionIn_eq_none.1 hnone e (List.mem_of_mem_head? he) hr
  have hxl : ({ s with live := l } : State).region? r = some x := by rw [hregions, if_neg hkept, hx]
  have hxe : (s.evict p).region? r = some x := (State.region?_of_live (by rw [hevict]) r).trans hxl
  have hnone' : sessionIn ((s.evict p).sessions p) r = none := by
    rw [State.sessions_evict, sessionIn_eq_none]
    exact fun e he => sessionIn_eq_none.1 hnone e ((madeRoom_sublist _).subset he)
  have hopened : (s.evict p).opened r x = s.opened r x := by
    rw [hevict]
    cases p <;> rfl
  refine ⟨(({ s with live := l } : State).withRegion r (s.opened r x)).live, ?_,
    (State.withRegion_conds _ _ _).trans hconds, fun q => ?_⟩
  · simp only [State.takeReaderHeader, hx, hnone]
    rw [State.openSession_eq hxe hw hnone', hopened, s.sessions_evict, hevict]
    cases p <;> rfl
  · refine (State.region?_withRegion hxl _ q).trans ?_
    rw [hregions]

/-! ### The arrival of a reader's read (R44, R49, R55) -/

/-- The reader's read of the header word is a header read. -/
theorem exec_of_readerHeaderRead {addr : Addr} {v : Word} (h : s.accessesRegion p addr r x)
    (hw : x.entry.writer = p.other) (ha : addr.toNat = x.entry.base.toNat) :
    exec (.accessArrival p true false addr v) s =
      .next (((s.strobe p).register p (s.newAccess .read addr v)).readerHeaderRead p r) := by
  have hne : x.entry.writer ≠ p := hw ▸ Port.other_ne p
  rw [exec_accessArrival_of_ready h.1 rfl, State.dispatch_of_accessesRegion h]
  simp [State.regionAccess, hne, dirOf, Entry.offset, ha]

/-- The reader's read of another word is a body read. -/
theorem exec_of_readerBodyRead {addr : Addr} {v : Word} (h : s.accessesRegion p addr r x)
    (hw : x.entry.writer = p.other) (ha : addr.toNat ≠ x.entry.base.toNat) :
    exec (.accessArrival p true false addr v) s =
      .next (((s.strobe p).register p (s.newAccess .read addr v)).readerBodyRead p r) := by
  have hb := State.base_le_of_accessesRegion h
  have hne : x.entry.writer ≠ p := hw ▸ Port.other_ne p
  have hoff : addr.toNat - x.entry.base.toNat ≠ 0 := by omega
  rw [exec_accessArrival_of_ready h.1 rfl, State.dispatch_of_accessesRegion h]
  simp [State.regionAccess, hne, dirOf, Entry.offset, hoff]

theorem State.committing_iff (hx : s.region? r = some x) : s.committing r = true ↔ x.header = .committing := by
  simp [State.committing, hx]

/-- Outside a commit a reader header read is taken by the Session Table at its arrival. -/
theorem exec_of_takenHeaderRead {addr : Addr} {v : Word} (h : s.accessesRegion p addr r x)
    (hw : x.entry.writer = p.other) (ha : addr.toNat = x.entry.base.toNat) (hc : x.header ≠ .committing) :
    exec (.accessArrival p true false addr v) s =
      .next (((s.strobe p).register p (s.newAccess .read addr v)).takeReaderHeader p r) := by
  obtain ⟨-, -, -, -, hx⟩ := id h
  have hc' : ((s.strobe p).register p (s.newAccess .read addr v)).committing r = false := by
    rw [State.committing_of_live (s := s) (by simp), Bool.eq_false_iff, Ne, State.committing_iff hx]
    exact hc
  rw [exec_of_readerHeaderRead h hw ha, State.readerHeaderRead, hc', if_neg (by decide)]

end

/-- The fields of the value that the reader's header read is answered with. -/
theorem Region.readValue_fields (x : Region) (result : HeaderResult) :
    let w := x.readValue result false
    w.extractLsb' 6 10 = x.gen ∧ w.extractLsb' 4 2 = x.header.code ∧ w.getLsbD 3 = x.stale
      ∧ w.extractLsb' 1 2 = result.code ∧ w.getLsbD 0 = false :=
  readHeader_fields x.gen x.header x.stale result false

/-- Outside a commit the state field shows TORN or CLEAN. -/
theorem HeaderState.code_of_not_committing {h : HeaderState} (hc : h ≠ .committing) :
    h.code = if h = .torn then 0b10#2 else 0b00#2 := by
  cases h with
  | clean | torn => rfl
  | committing => exact absurd rfl hc

theorem closeResult_code (e : Session) (h : HeaderState) :
    (closeResult e h).code = if e.state = .open ∧ h ≠ .torn then 0b10#2 else 0b11#2 := by
  unfold closeResult
  split <;> rfl

/-- Settles O31: the read is taken by `takeReaderHeader` with no session. -/
theorem readerHeaderReadOpensASession : Obligations.ReaderHeaderReadOpensASession := by
  intro s p addr v r x hacc hw ha hc hsound hnone howned
  obtain ⟨-, -, -, -, hx⟩ := id hacc
  generalize ht : (s.strobe p).register p (s.newAccess .read addr v) = t
  have hlive : t.live = s.live := by simp [← ht]
  have htables (q : Port) : t.sessions q = s.sessions q := by
    rw [← ht]
    exact State.sessions_of_tables (by simp) (by simp) q
  obtain ⟨l, htaken, hconds, hregions⟩ := State.takeReaderHeader_of_noSession (s := t) (p := p)
    ((State.region?_of_live hlive r).trans hx) hw (by rwa [htables]) (by rw [htables]; exact s.sessionsSound_iff.1 hsound p)
    (by simpa only [htables, State.region?_of_live hlive] using howned)
  have hopened : t.opened r x = s.opened r x := by
    rw [← ht]
    cases p <;> rfl
  have hregions' (q : Fin 64) : ({ t with live := l } : State).region? q =
      if q = r then some (s.opened r x)
      else if s.givesUp p q then (s.region? q).map fun y => { y with holdTimer := none }
      else s.region? q := by
    simpa only [htables, State.region?_of_live hlive, hopened, State.givesUp] using hregions q
  obtain ⟨hgen, hstate, hstale, hresult, hstaged⟩ := x.readValue_fields .open
  rw [exec_of_takenHeaderRead hacc hw ha hc, ht, htaken, htables, ← ht, State.register_endAccess]
  refine ⟨_, x.readValue .open false, rfl, ?_, ?_, ?_, hgen, hstale, hresult, hstaged,
    hstate.trans (HeaderState.code_of_not_committing hc), ?_, ?_, hconds.trans (congrArg _ hlive), ?_, fun q hq => ?_⟩
  · cases p <;> exact ⟨_, _, _, _, _, rfl⟩
  · cases p <;> rfl
  · cases p <;> rfl
  · cases p <;> rfl
  · cases p <;> rfl
  · exact (hregions' r).trans (if_pos rfl)
  · exact (hregions' q).trans (if_neg hq)

/-- In a table of distinct regions the entries of the other regions are all but the region's own (R39, R40). -/
theorem filter_region_eq_erase {t : List Session} {r : Fin 64} {e : Session} (hd : (t.map Session.region).Nodup)
    (he : sessionIn t r = some e) : (t.filter fun f => f.region != r) = t.erase e := by
  have her : e.region = r := by simpa using List.find?_some he
  have hmem : e ∈ t := List.mem_of_find?_eq_some he
  rw [(hd.of_map _).erase_eq_filter]
  refine List.filter_congr fun f hf => ?_
  have hiff : f.region = r ↔ f = e :=
    ⟨fun h => List.inj_on_of_nodup_map hd hf hmem (h.trans her.symm), fun h => h ▸ her⟩
  simp [bne, beq_eq_decide, hiff]

/-- Settles O32: the read is taken by `takeReaderHeader` with a session. -/
theorem readerHeaderReadClosesTheSession : Obligations.ReaderHeaderReadClosesTheSession := by
  intro s p addr v r x e hacc hw ha hc hsound he
  obtain ⟨-, -, -, -, hx⟩ := id hacc
  obtain ⟨-, hdistinct⟩ := s.sessionsSound_iff.1 hsound p
  obtain ⟨hgen, hstate, hstale, hresult, hstaged⟩ := x.readValue_fields (closeResult e x.header)
  refine ⟨x.readValue (closeResult e x.header) false, ?_, hgen, hstale, hstaged,
    hstate.trans (HeaderState.code_of_not_committing hc), hresult.trans (closeResult_code e x.header)⟩
  generalize ht : (s.strobe p).register p (s.newAccess .read addr v) = t
  have htables : t.sessions p = s.sessions p := by
    rw [← ht]
    exact State.sessions_of_tables (by simp) (by simp) p
  have hx' : t.region? r = some x := (State.region?_of_live (by simp [← ht]) r).trans hx
  rw [exec_of_takenHeaderRead hacc hw ha hc, ht, State.takeReaderHeader_of_session hx' hw (htables ▸ he), htables,
    filter_region_eq_erase hdistinct he, ← ht, State.register_endAccess]

/-- Settles O33: by whether the region is COMMITTING. -/
theorem readerReadsWaitOutACommit : Obligations.ReaderReadsWaitOutACommit := by
  intro s p addr v r x hacc hw
  obtain ⟨-, -, -, -, hx⟩ := id hacc
  have hcommitting :
      ((s.strobe p).register p (s.newAccess .read addr v)).committing r = true ↔ x.header = .committing := by
    rw [State.committing_of_live (s := s) (by simp), State.committing_iff hx]
  refine ⟨fun ha => ?_, fun ha hc => ?_⟩
  · rw [exec_of_readerBodyRead hacc hw ha, State.readerBodyRead, State.register_hold]
    simp only [hcommitting]
  · rw [exec_of_readerHeaderRead hacc hw ha, State.readerHeaderRead, if_pos (hcommitting.2 hc), State.register_hold]

/-! ## The hold timer's expiry (R69) -/

/-- A region's session entry, where it has one, becomes BROKEN in its reader's table (R51). -/
theorem State.breakSession_eq {s : State} {r : Fin 64} {x : Region} (hx : s.region? r = some x) :
    s.breakSession r =
      s.setSessions x.entry.writer.other (breakIn (s.sessions x.entry.writer.other) r) := by
  simp only [State.breakSession, hx]

/-- A hold timer expires exactly when it runs, its count is reached and REFCLK runs, in a part that takes events and has live
regions. -/
theorem State.holdDue_iff (s : State) (r : Fin 64) :
    s.holdDue r = true ↔ s.running = true ∧ s.pins.refclk = true ∧ (s.part = .active ∨ s.part = .draining)
      ∧ ∃ x, s.region? r = some x ∧ x.holdTimer = some s.time := by
  have hlive : s.part.regionsLive = true ↔ s.part = .active ∨ s.part = .draining := by
    cases s.part <;> simp [PartState.regionsLive]
  unfold State.holdDue
  cases s.region? r with
  | none => simp
  | some x =>
    simp only [Bool.and_eq_true, hlive, State.due, beq_iff_eq, Option.some.injEq, exists_eq_left']
    tauto

/-- Settles O34: by whether the expiry is there to be taken. -/
theorem holdTimerExpiryBreaksTheSession : Obligations.HoldTimerExpiryBreaksTheSession := by
  refine fun s r => ⟨fun x hr hclk hpart hx ht => ?_, fun h => ?_⟩
  · have hdue : s.holdDue r = true := (s.holdDue_iff r).2 ⟨hr, hclk, hpart, x, hx, ht⟩
    have hexec : exec (.holdTimerExpiry r) s = .next (s.expireHold r) := by
      simp [exec, execHoldTimerExpiry, hdue]
    rw [hexec, State.expireHold, State.breakSession_eq hx, State.updRegion_eq ((s.region?_setSessions _ _ r).trans hx)]
    rfl
  · have hdue : s.holdDue r = false := by
      refine Bool.eq_false_iff.2 fun hd => ?_
      obtain ⟨hr, hclk, hpart, x, hx, ht⟩ := (s.holdDue_iff r).1 hd
      rcases h with h | h | ⟨ha, hdr⟩ | h
      · simp [hr] at h
      · simp [hclk] at h
      · exact hpart.elim ha hdr
      · exact h x hx ht
    simp [exec, execHoldTimerExpiry, hdue]

end Sys2Proof.Machine
end

section
/-! The start of a commit (O40): the slot selected, and the withdrawals the start makes. -/

namespace Sys2Proof.Machine

/-! ## Deferral and selection (R65, R72, R73) -/

theorem State.deferring_iff (s : State) (q : Fin 64) :
    s.deferring q = true ↔ (s.sealedLink q).isSome = true ∧ ∃ y e, s.region? q = some y ∧ 0 < y.entry.hold
      ∧ sessionIn (s.sessions y.entry.writer.other) q = some e ∧ e.state = .open := by
  unfold State.deferring State.sessionLink
  cases s.region? q with
  | none => simp
  | some y => cases hse : sessionIn (s.sessions y.entry.writer.other) q <;> simp [hse, and_assoc]

theorem State.slotDeferring_iff (s : State) (k : Fin 12) :
    s.slotDeferring k = true ↔ ∃ q, s.slots[k].region = some q ∧ s.deferring q = true := by
  unfold State.slotDeferring
  cases s.slots[k].region <;> simp

/-- In ACTIVE the idle engine selects the oldest slot of the queue whose region is not deferring (R72). -/
theorem State.selected_of_active {s : State} (hc : s.commit = none) (hp : s.part = .active) :
    s.selected = s.commitQueue.find? fun k => !s.slotDeferring k := by
  simp only [State.selected, hc, hp]

/-- In DRAINING the idle engine selects the head of the queue (R73). -/
theorem State.selected_of_draining {s : State} (hc : s.commit = none) (hp : s.part = .draining) :
    s.selected = s.commitQueue.head? := by
  simp only [State.selected, hc, hp]

/-- No slot is selected in the other part states, nor while a commit is in progress (R64, R86, R160). -/
theorem State.selected_of_closed {s : State} (h : s.commit.isSome = true ∨ s.part ≠ .active ∧ s.part ≠ .draining) :
    s.selected = none := by
  unfold State.selected
  split
  · rename_i hc hp
    simp [hc, hp] at h
  · rename_i hc hp
    simp [hc, hp] at h
  · rfl

theorem exec_commitStart_of_none {s : State} (h : s.running = false ∨ s.selected = none) :
    exec .commitStart s = .next s := by
  have hs : (if s.running then s.startSelected else s) = s := by
    rcases h with h | h
    · simp [h]
    · simp [State.startSelected, h]
  exact congrArg _ hs

theorem exec_commitStart_of_selected {s : State} {k : Fin 12} {r : Fin 64} {x : Region} (hr : s.running = true)
    (hk : s.selected = some k) (hs : s.slots[k].region = some r) (hx : s.region? r = some x) :
    exec .commitStart s = .next (s.startCommit k r x) := by
  have hstart : s.startSelected = s.startCommit k r x := by
    simp only [State.startSelected, hk, hs, hx]
  simp only [exec, execCommitStart, if_pos hr, hstart]

/-! ## The withdrawals at the start (R56, R75, R111) -/

/-- The record of a port whose access, if it is a body read of region `r` that waits for its grant, waits with cause COMMIT
(R56). -/
def PortRec.withdrawn (x : PortRec) (r : Fin 64) : PortRec :=
  { x with
    access := x.access.map fun a =>
      if a.phase = .held .arbiter ∧ a.cls = .readerBody r then { a with phase := .held .commit } else a }

theorem State.withdrawReader_eq (s : State) (p : Port) (r : Fin 64) :
    s.withdrawReader p r = s.setPort p ((s.port p).withdrawn r) := by
  have hself : s.setPort p { s.port p with access := (s.port p).access } = s := by cases p <;> rfl
  unfold State.withdrawReader PortRec.withdrawn
  cases ha : (s.port p).access with
  | none =>
    rw [ha] at hself
    exact hself.symm
  | some a =>
    rw [ha] at hself
    dsimp only [Option.map_some]
    by_cases hw : a.phase = .held .arbiter ∧ a.cls = .readerBody r
    · rw [if_pos hw, if_pos hw, State.hold_eq (by decide), ha, Option.map_some, ← hw.2]
    · rw [if_neg hw, if_neg hw, hself]

/-- The condition read of a word of region `r`, when it is not yet granted, is HELD (R111). -/
theorem State.holdScan_eq (s : State) (r : Fin 64) :
    s.holdScan r =
      { s with
        scan := s.scan.map fun c =>
          if c.step = .requested ∧ s.regionCovers r (s.condition c.position).addr = true ∧ s.carries .diag = false then
            { c with step := .held }
          else c } := by
  have hcarried : s.diagCarried = s.carries .diag := rfl
  unfold State.holdScan
  cases hs : s.scan with
  | none =>
    dsimp only [Option.map_none]
    rw [← hs]
  | some c =>
    dsimp only [Option.map_some]
    rw [hcarried]
    split
    · rfl
    · rw [← hs]

/-- Outside PFAIL the Record Writer that ends its item takes the head of its queue (R123). -/
theorem State.endItem_eq {s : State} (hp : s.part ≠ .pfail) :
    s.endItem =
      { s with
        log :=
          { s.log with
            queue := s.log.queue.tail, inHand := s.log.queue.head?.map fun i => i.begin s.log.producer } } := by
  unfold State.endItem State.takeItem
  cases hq : s.log.queue <;> cases hc : s.part <;> simp_all

/-- The TORN rewrite of the region at `b` that waits, or is in hand with its access not granted, is withdrawn (R75). -/
theorem State.withdrawTorn_eq {s : State} (hp : s.part ≠ .pfail) (b : Addr) :
    s.withdrawTorn b =
      { s with
        log :=
          if s.log.inHand.any (InHand.isTornOf b) && !s.carries .writer then
            { s.log with
              queue := (s.log.queue.filter fun i => !i.isTornOf b).tail
              inHand := (s.log.queue.filter fun i => !i.isTornOf b).head?.map fun i => i.begin s.log.producer }
          else { s.log with queue := s.log.queue.filter fun i => !i.isTornOf b } } := by
  have hcarried : s.writerCarried = s.carries .writer := rfl
  unfold State.withdrawTorn
  rw [hcarried]
  dsimp only
  split
  · exact State.endItem_eq hp
  · rfl

/-! ## The start (R74) -/

/-- A queue without the slot that is taken from it. -/
theorem filter_ne_of_append {pre post : List (Fin 12)} {k : Fin 12} (hk : k ∉ pre ++ post) :
    (pre ++ k :: post).filter (fun j => j != k) = pre ++ post := by
  obtain ⟨hpre, hpost⟩ : k ∉ pre ∧ k ∉ post := by simpa using hk
  have hkeep (l : List (Fin 12)) (h : k ∉ l) : l.filter (fun j => j != k) = l :=
    List.filter_eq_self.2 fun j hj => by simpa using fun he : j = k => h (he ▸ hj)
  rw [List.filter_append, List.filter_cons, hkeep pre hpre, hkeep post hpost]
  simp

/-- The slot, the Commit Queue and the commit record at the start (R74). -/
def State.slotStarted (s : State) (k : Fin 12) (r : Fin 64) (x : Region) : State :=
  { s.setSlot k { s.slots[k] with state := .committing } with
    commitQueue := s.commitQueue.filter fun j => j != k
    commit := some
      { slot := k, region := r, base := x.entry.base, oldGen := x.gen, step := .opening
        next := (s.slots[k].words.head?).map Prod.fst } }

/-- A condition depends on the pool alone. -/
theorem State.condition_of_conds {s t : State} (h : t.live.map Live.conds = s.live.map Live.conds) (c : Nat) :
    t.condition c = s.condition c := by
  unfold State.condition
  cases ht : t.live <;> cases hs : s.live <;> simp_all

/-- A region's words are those of its entry (R3). -/
theorem State.regionCovers_of_entry {s t : State} {r : Fin 64}
    (h : (t.region? r).map Region.entry = (s.region? r).map Region.entry) (a : Addr) :
    t.regionCovers r a = s.regionCovers r a := by
  unfold State.regionCovers
  cases ht : t.region? r <;> cases hs : s.region? r <;> simp_all

/-- The state of a commit that starts, before the scan and the Record Writer are told: the slot and the region are
COMMITTING, the session is BROKEN, and the reader's body read waits. -/
def State.begun (s : State) (k : Fin 12) (r : Fin 64) (x : Region) : State :=
  (((s.slotStarted k r x).withRegion r { x with header := .committing }).setSessions x.entry.writer.other
    (breakIn (s.sessions x.entry.writer.other) r)).setPort x.entry.writer.other ((s.port x.entry.writer.other).withdrawn r)

/-- The fields that the start has changed so far. -/
theorem State.begun_eq (s : State) (k : Fin 12) (r : Fin 64) (x : Region) :
    let reader := x.entry.writer.other
    s.begun k r x =
      ({ s with
          slots := s.slots.set k { s.slots[k] with state := .committing }
          commitQueue := s.commitQueue.filter fun j => j != k
          commit := some
            { slot := k, region := r, base := x.entry.base, oldGen := x.gen, step := .opening
              next := s.slots[k].words.head?.map Prod.fst }
          sessionsA := (s.setSessions reader (breakIn (s.sessions reader) r)).sessionsA
          sessionsB := (s.setSessions reader (breakIn (s.sessions reader) r)).sessionsB
          portA := (s.setPort reader ((s.port reader).withdrawn r)).portA
          portB := (s.setPort reader ((s.port reader).withdrawn r)).portB } : State).withRegion r
        { x with header := .committing } := by
  dsimp only
  unfold State.begun
  cases x.entry.writer.other <;> rfl

theorem State.startCommit_eq {s : State} {r : Fin 64} {x : Region} (hx : s.region? r = some x) (k : Fin 12) :
    s.startCommit k r x = ((s.begun k r x).holdScan r).withdrawTorn x.entry.base := by
  have hmarked : ((s.slotStarted k r x).updRegion r fun y => { y with header := .committing }) =
      (s.slotStarted k r x).withRegion r { x with header := .committing } :=
    State.updRegion_eq (s := s.slotStarted k r x) hx _
  have hbroken : ((s.slotStarted k r x).withRegion r { x with header := .committing }).breakSession r =
      ((s.slotStarted k r x).withRegion r { x with header := .committing }).setSessions x.entry.writer.other
        (breakIn (s.sessions x.entry.writer.other) r) := by
    have hx' := State.region?_withRegion (s := s.slotStarted k r x) hx { x with header := .committing } r
    rw [if_pos rfl] at hx'
    rw [State.breakSession_eq hx']
    cases x.entry.writer.other <;> rfl
  have hport : (((s.slotStarted k r x).withRegion r { x with header := .committing }).setSessions x.entry.writer.other
      (breakIn (s.sessions x.entry.writer.other) r)).port x.entry.writer.other = s.port x.entry.writer.other := by
    cases x.entry.writer.other <;> rfl
  have hstart : s.startCommit k r x =
      (((((s.slotStarted k r x).updRegion r fun y => { y with header := .committing }).breakSession r).withdrawReader
        x.entry.writer.other r).holdScan r).withdrawTorn x.entry.base := rfl
  rw [hstart, hmarked, hbroken, State.withdrawReader_eq, hport, State.begun]

/-- The start leaves the words of region `r`, the conditions and the cycle carried. -/
theorem State.begun_holdScan {s : State} {r : Fin 64} {x : Region} (hx : s.region? r = some x) (k : Fin 12) :
    (s.begun k r x).holdScan r =
      { s.begun k r x with
        scan := s.scan.map fun c =>
          if c.step = .requested ∧ s.regionCovers r (s.condition c.position).addr = true ∧ s.carries .diag = false then
            { c with step := .held }
          else c } := by
  have hlive : (s.begun k r x).live = (s.withRegion r { x with header := .committing }).live := by
    rw [State.begun, State.setPort_live, State.setSessions_live]; rfl
  have hconds (c : Nat) : (s.begun k r x).condition c = s.condition c :=
    State.condition_of_conds (by rw [hlive, State.withRegion_conds]) c
  have hcovers (a : Addr) : (s.begun k r x).regionCovers r a = s.regionCovers r a := by
    refine State.regionCovers_of_entry ?_ a
    rw [State.region?_of_live hlive, State.region?_withRegion hx, if_pos rfl, hx]
    rfl
  have hscan : (s.begun k r x).scan = s.scan := by
    rw [State.begun, State.setPort_scan, State.setSessions_scan]; rfl
  have hcarries : (s.begun k r x).carries .diag = s.carries .diag := by
    rw [State.carries, State.begun, State.setPort_cycle, State.setSessions_cycle]; rfl
  simp only [State.holdScan_eq, hconds, hcovers, hscan, hcarries]

theorem State.selected_of_split {s : State} {pre post : List (Fin 12)} {k : Fin 12} {r : Fin 64} (hc : s.commit = none)
    (hq : s.commitQueue = pre ++ k :: post) (hk : s.slots[k].region = some r)
    (h : s.part = .active ∧ s.deferring r = false
        ∧ (∀ j ∈ pre, ∃ q, s.slots[j].region = some q ∧ s.deferring q = true)
      ∨ s.part = .draining ∧ pre = []) : s.selected = some k := by
  rcases h with ⟨hp, hd, hpre⟩ | ⟨hp, rfl⟩
  · have hk' : s.slotDeferring k = false := by
      simp only [State.slotDeferring, hk, hd]
    rw [State.selected_of_active hc hp, hq, List.find?_append, List.find?_eq_none.2, List.find?_cons, hk']
    · rfl
    · intro j hj
      simp [(s.slotDeferring_iff j).2 (hpre j hj)]
  · rw [State.selected_of_draining hc hp, hq]
    rfl

/-- Settles O40: the slot by `selected`, and the start as the updates of `begun`, the scan and the Record Writer. -/
theorem commitStartTakesTheOldestSelectableSlot : Obligations.CommitStartTakesTheOldestSelectableSlot := by
  refine ⟨State.deferring_iff, fun s h => ?_, ?_⟩
  · refine exec_commitStart_of_none ?_
    rcases h with h | h | h | ⟨hp, h⟩ | ⟨hp, h⟩
    · exact .inl h
    · exact .inr (State.selected_of_closed (.inl h))
    · exact .inr (State.selected_of_closed (.inr h))
    · cases hc : s.commit with
      | some c => exact .inr (State.selected_of_closed (.inl (by rw [hc]; rfl)))
      | none =>
        rw [State.selected_of_active hc hp]
        refine .inr (List.find?_eq_none.2 fun j hj => ?_)
        simp [(s.slotDeferring_iff j).2 (h j hj)]
    · cases hc : s.commit with
      | some c => exact .inr (State.selected_of_closed (.inl (by rw [hc]; rfl)))
      | none =>
        rw [State.selected_of_draining hc hp, h]
        exact .inr rfl
  · intro s pre post k r x hr hc hq hk hregion hx hsel reader kept withdrawn next
    have hpart : ((s.begun k r x).holdScan r).part ≠ .pfail := by
      have hpart : ((s.begun k r x).holdScan r).part = s.part := by
        rw [State.begun_holdScan hx, State.begun, State.setPort_part, State.setSessions_part]; rfl
      rw [hpart]
      rcases hsel with ⟨h, -⟩ | ⟨h, -⟩ <;> simp [h]
    have hkept : (s.log.queue.filter fun i => !i.isTornOf x.entry.base) = kept := by
      refine List.filter_congr fun i _ => ?_
      cases i <;> rfl
    have hwithdrawn : (s.log.inHand.any (InHand.isTornOf x.entry.base) && !s.carries .writer) = withdrawn := by
      simp only [withdrawn]
      rcases s.log.inHand with _ | (_ | _ | _) <;> rfl
    refine ⟨(s.setSessions reader (breakIn (s.sessions reader) r)).sessionsA,
      (s.setSessions reader (breakIn (s.sessions reader) r)).sessionsB,
      (s.setPort reader ((s.port reader).withdrawn r)).portA, (s.setPort reader ((s.port reader).withdrawn r)).portB,
      ?_, ?_, ?_⟩
    · rw [exec_commitStart_of_selected hr (State.selected_of_split hc hq hregion hsel) hregion hx, State.startCommit_eq hx,
        State.withdrawTorn_eq hpart, State.begun_holdScan hx, State.begun_eq, ← filter_ne_of_append hk, ← hq,
        ← hwithdrawn]
      simp only [next, ← hkept]
      rfl
    · cases reader <;> exact ⟨rfl, rfl⟩
    · cases reader <;> exact ⟨rfl, rfl⟩

end Sys2Proof.Machine
end

section
/-! What a commit's completion tells the other blocks (O43). -/

namespace Sys2Proof.Machine

/-! ## What the sessions, the timers and learning leave of the live table -/

/-- The fields of a region's record that only a commit, an expiry of its deadline or a load changes. -/
def Region.fixed (x : Region) : Entry × BitVec 10 × HeaderState × Bool := (x.entry, x.gen, x.header, x.stale)

/-- The operation leaves those fields of every record, and the condition pool. -/
def State.KeepsFixed (s t : State) : Prop :=
  (∀ q, (t.region? q).map Region.fixed = (s.region? q).map Region.fixed)
    ∧ t.live.map Live.conds = s.live.map Live.conds

theorem State.KeepsFixed.of_live {s t : State} (h : t.live = s.live) : s.KeepsFixed t :=
  ⟨fun q => by rw [State.region?_of_live h], by rw [h]⟩

theorem State.KeepsFixed.refl (s : State) : s.KeepsFixed s := .of_live rfl

theorem State.KeepsFixed.trans {s t u : State} (h : s.KeepsFixed t) (h' : t.KeepsFixed u) : s.KeepsFixed u :=
  ⟨fun q => (h'.1 q).trans (h.1 q), h'.2.trans h.2⟩

/-- An operation after one that leaves the live table. -/
theorem State.KeepsFixed.after_live {s t u : State} (h' : t.KeepsFixed u) (h : t.live = s.live) : s.KeepsFixed u :=
  (State.KeepsFixed.of_live h).trans h'

/-- An operation before one that leaves the live table. -/
theorem State.KeepsFixed.then_live {s t u : State} (h : s.KeepsFixed t) (h' : u.live = t.live) : s.KeepsFixed u :=
  h.trans (.of_live h')

/-- A region that has a record has one with the same fields. -/
theorem State.KeepsFixed.record {s t : State} (h : s.KeepsFixed t) {q : Fin 64} {y : Region} (hy : s.region? q = some y) :
    ∃ z, t.region? q = some z ∧ z.fixed = y.fixed := by
  simpa [hy] using h.1 q

theorem State.KeepsFixed.condition {s t : State} (h : s.KeepsFixed t) (c : Nat) : t.condition c = s.condition c :=
  State.condition_of_conds h.2 c

theorem State.KeepsFixed.regionCovers {s t : State} (h : s.KeepsFixed t) (r : Fin 64) (a : Addr) :
    t.regionCovers r a = s.regionCovers r a := by
  refine State.regionCovers_of_entry ?_ a
  simpa [Function.comp_def, Region.fixed] using congrArg (Option.map Prod.fst) (h.1 r)

theorem State.updRegion_keepsFixed (s : State) (r : Fin 64) {f : Region → Region} (hf : ∀ x, (f x).fixed = x.fixed) :
    s.KeepsFixed (s.updRegion r f) := by
  refine ⟨fun q => ?_, ?_⟩
  · rw [State.region?_updRegion]
    split
    · simp [Function.comp_def, hf]
    · rfl
  · rw [State.updRegion_live, Option.map_map]
    rfl

/-! ### The Stage Pool -/

theorem State.noteDeferral_keepsFixed (s : State) (r : Fin 64) : s.KeepsFixed (s.noteDeferral r) := by
  refine s.updRegion_keepsFixed r fun x => ?_
  split
  · split <;> rfl
  · rfl

theorem State.sealAs_keepsFixed (s : State) (k : Fin 12) (r : Fin 64) (ws : List (Nat × Word)) :
    s.KeepsFixed (s.sealAs k r ws) :=
  State.KeepsFixed.after_live (State.noteDeferral_keepsFixed _ r) rfl

theorem State.giveSlot_keepsFixed (s : State) (k : Fin 12) (r : Fin 64) (ask : StageAsk) (v : Word) :
    s.KeepsFixed (s.giveSlot k r ask v) := by
  unfold State.giveSlot
  split
  · exact .of_live rfl
  · exact .of_live rfl
  · exact s.sealAs_keepsFixed _ _ _
  · exact s.sealAs_keepsFixed _ _ _
  · exact .refl s

theorem State.serveEntry_keepsFixed (s : State) (e : WaitEntry) : s.KeepsFixed (s.serveEntry e) := by
  unfold State.serveEntry
  split
  · refine State.KeepsFixed.then_live ?_ (State.endAccess_live _ _ _)
    exact State.KeepsFixed.after_live (State.giveSlot_keepsFixed _ _ _ _ _) rfl
  · exact .of_live (State.hold_live _ _ _ _)

theorem serveList_keepsFixed (es : List WaitEntry) (s : State) : s.KeepsFixed (serveList es s) := by
  induction es generalizing s with
  | nil => exact .refl s
  | cons e rest ih => exact (s.serveEntry_keepsFixed e).trans (ih (s.serveEntry e))

/-! ### The Session Tables -/

theorem State.evict_keepsFixed (s : State) (p : Port) : s.KeepsFixed (s.evict p) := by
  unfold State.evict
  split
  · exact .refl s
  · split
    · exact (State.noteDeferral_keepsFixed _ _).after_live (State.setSessions_live _ _ _)
    · exact .refl s

theorem State.takeReaderHeader_keepsFixed (s : State) (p : Port) (r : Fin 64) :
    s.KeepsFixed (s.takeReaderHeader p r) := by
  have noted (t : State) (l : List Session) : t.KeepsFixed ((t.setSessions p l).noteDeferral r) :=
    (State.noteDeferral_keepsFixed _ r).after_live (State.setSessions_live _ _ _)
  unfold State.takeReaderHeader
  split
  · split
    · exact (noted s _).then_live (State.endAccess_live _ _ _)
    · exact ((s.evict_keepsFixed p).trans (noted _ _)).then_live (State.endAccess_live _ _ _)
  · exact .refl s

theorem State.releaseReader_keepsFixed (s : State) (p : Port) (r : Fin 64) : s.KeepsFixed (s.releaseReader p r) := by
  unfold State.releaseReader
  split
  · split
    · exact s.takeReaderHeader_keepsFixed p r
    · split
      · exact .of_live (State.hold_live _ _ _ _)
      · exact .refl s
  · exact .refl s

/-! ### The Deadline Unit -/

theorem Region.arm_fixed (x : Region) (now : Time) : (x.arm now).fixed = x.fixed := by
  unfold Region.arm; split <;> rfl

theorem State.raiseLongest_keepsFixed (s : State) (r : Fin 64) (x : Region) (ms : Nat) :
    s.KeepsFixed (s.raiseLongest r x ms) := by
  unfold State.raiseLongest
  dsimp only
  split
  · exact s.updRegion_keepsFixed r fun _ => rfl
  · refine State.KeepsFixed.then_live (s.updRegion_keepsFixed r fun _ => ?_) (State.handWriteBack_live _ _ _)
    rfl

theorem State.takeSample_keepsFixed (s : State) (r : Fin 64) (x : Region) : s.KeepsFixed (s.takeSample r x) := by
  have timed := s.updRegion_keepsFixed r (f := fun y => { y with lastCommit := some s.time }) fun _ => rfl
  unfold State.takeSample
  split
  · exact timed
  · dsimp only
    split
    · exact timed.trans (State.raiseLongest_keepsFixed _ r x _)
    · exact timed

theorem State.deadlineCompletion_keepsFixed (s : State) (r : Fin 64) : s.KeepsFixed (s.deadlineCompletion r) := by
  unfold State.deadlineCompletion
  split
  · split
    · exact s.takeSample_keepsFixed r _
    · exact s.updRegion_keepsFixed r fun y => y.arm_fixed s.time
  · exact .refl s

/-- A region that does not learn is armed for its full period when it is watched, and else disarmed (R91). -/
theorem State.deadlineCompletion_of_not_learning {s : State} {r : Fin 64} {x : Region} (hx : s.region? r = some x)
    (hl : x.entry.learn = false) :
    s.deadlineCompletion r = s.withRegion r
      { x with
        deadline := if 0 < x.entry.period then some (s.time + BitVec.ofNat 32 (x.entry.period * 1000)) else none } := by
  simp only [State.deadlineCompletion, hx, hl]
  rw [if_neg (by decide), State.updRegion_eq hx, Region.arm]
  by_cases hp : 0 < x.entry.period <;> simp [Entry.watched, hl, hp]

/-! ## The Diagnosis Engine (R111, R113, R114) -/

/-- A scan told of the completion of a commit of region `r`: it is marked recovered when it is the region's, and a HELD read
of a word of the region (`covers`) is made. -/
def Scan.told (c : Scan) (r : Fin 64) (covers : Bool) : Scan :=
  { c with
    recovered := c.recovered || c.region == r
    step := if c.step = .held ∧ covers = true then .requested else c.step }

theorem State.diagCompletion_eq (s : State) (r : Fin 64) :
    s.diagCompletion r =
      { s with
        diagQueue := s.diagQueue.filter fun q => q != r
        scan := s.scan.map fun c => c.told r (s.regionCovers r (s.condition c.position).addr) } := by
  have hmarked (c : Scan) : (if c.region = r then { c with recovered := true } else c) =
      { c with recovered := c.recovered || c.region == r } := by
    split
    · simp [*]
    · rename_i hne
      rw [beq_false_of_ne hne, Bool.or_false]
  unfold State.diagCompletion State.releaseScan
  cases hs : s.scan with
  | none => rfl
  | some c =>
    simp only [Option.map_some, hmarked, Scan.told]
    by_cases hheld : c.step = .held ∧ s.regionCovers r (s.condition c.position).addr = true
    · rw [if_pos hheld]
      exact if_pos hheld
    · rw [if_neg hheld]
      exact if_neg hheld

/-! ## The reader's release (R49, R54, R55) -/

/-- The access at `p` is the one that waits for the completion of region `r`'s commit. -/
def State.awaits (s : State) (p : Port) (r : Fin 64) (a : Access) : Prop :=
  (s.port p).access = some a ∧ a.phase = .held .commit ∧ (a.cls = .readerHeader r ∨ a.cls = .readerBody r)

theorem State.releaseReader_of_none {s : State} {p : Port} {r : Fin 64} (h : ∀ a, ¬ s.awaits p r a) :
    s.releaseReader p r = s := by
  unfold State.releaseReader
  split
  · rename_i a ha
    have hno := h a
    rw [if_neg fun hw => hno ⟨ha, hw.1, .inl hw.2⟩, if_neg fun hw => hno ⟨ha, hw.1, .inr hw.2⟩]
  · rfl

theorem State.releaseReader_of_header {s : State} {p : Port} {r : Fin 64} {a : Access} (h : s.awaits p r a)
    (hc : a.cls = .readerHeader r) : s.releaseReader p r = s.takeReaderHeader p r := by
  obtain ⟨ha, hph, -⟩ := h
  simp [State.releaseReader, ha, hph, hc]

theorem State.releaseReader_of_body {s : State} {p : Port} {r : Fin 64} {a : Access} (h : s.awaits p r a)
    (hc : a.cls = .readerBody r) :
    s.releaseReader p r = s.setPort p { s.port p with access := some { a with phase := .held .arbiter } } := by
  obtain ⟨ha, hph, -⟩ := h
  have hhold : s.releaseReader p r = s.hold p .arbiter (.readerBody r) := by
    simp [State.releaseReader, ha, hph, hc]
  rw [hhold, State.hold_eq (by decide), ha, Option.map_some, ← hc]

/-- A release at one port leaves the other. -/
theorem State.releaseReader_port_other (s : State) (p : Port) (r : Fin 64) :
    (s.releaseReader p r).port p.other = s.port p.other := by
  have ended (t : State) (d : Option Word) (h : t.port p.other = s.port p.other) :
      (t.endAccess p d).port p.other = s.port p.other := by
    rw [State.endAccess, State.port_setPort_other, h]
  have ports (t : State) (ha : t.portA = s.portA) (hb : t.portB = s.portB) : t.port p.other = s.port p.other := by
    cases p
    · exact hb
    · exact ha
  have header : (s.takeReaderHeader p r).port p.other = s.port p.other := by
    unfold State.takeReaderHeader
    split
    · split
      · obtain ⟨l, a, b, h⟩ := s.closeSession_only p r
        exact ended _ _ (ports _ (by rw [h]) (by rw [h]))
      · obtain ⟨l, a, b, h⟩ := s.evict_only p
        obtain ⟨l', a', b', h'⟩ := (s.evict p).openSession_only p r
        exact ended _ _ (ports _ (by rw [h', h]) (by rw [h', h]))
    · rfl
  unfold State.releaseReader
  split
  · split
    · exact header
    · split
      · exact State.port_setPort_other _ _ _
      · rfl
  · rfl

/-- With no access that awaits the completion at the other port, the release is that of one port. -/
theorem State.releaseReaders_of_one {s : State} {p : Port} {r : Fin 64} (h : ∀ a, ¬ s.awaits p.other r a) :
    (s.releaseReader .a r).releaseReader .b r = s.releaseReader p r := by
  cases p with
  | a =>
    refine State.releaseReader_of_none fun a ha => h a ?_
    have hport : (s.releaseReader .a r).port .b = s.port .b := s.releaseReader_port_other .a r
    rwa [State.awaits, hport] at ha
  | b =>
    have hport : s.releaseReader .a r = s := State.releaseReader_of_none h
    rw [hport]

/-! ## The completion -/

/-- The state `t` with what the Diagnosis Engine is told in `s` of the completion of a commit of region `r` (R111, R113,
R114). -/
def State.told (s : State) (r : Fin 64) (t : State) : State :=
  { t with
    diagQueue := s.diagQueue.filter fun q => q != r
    scan := s.scan.map fun c => c.told r (s.regionCovers r (s.condition c.position).addr) }

/-- The state `t` with what the Deadline Unit is told in `s` of the completion of a commit of region `r`, whose record in `t`
is `y` (R85, R91, R97). -/
def State.timed (s : State) (r : Fin 64) (t : State) (y : Region) : State :=
  if y.entry.learn then t.deadlineCompletion r
  else t.withRegion r
    { y with
      deadline := if 0 < y.entry.period then some (s.time + BitVec.ofNat 32 (y.entry.period * 1000)) else none }

theorem State.serveWaiting_time (s : State) : s.serveWaiting.time = s.time := by
  obtain ⟨w, sl, q, l, pa, pb, h⟩ := s.serveWaiting_only
  rw [h]

theorem State.serveWaiting_sessions (s : State) (p : Port) : s.serveWaiting.sessions p = s.sessions p := by
  obtain ⟨ha, hb⟩ := Prod.ext_iff.1 s.serveWaiting_tables
  exact State.sessions_of_tables ha hb p

section
variable {s t : State} {r : Fin 64} {x y : Region} {p : Port} {a : Access}

/-- The writes are served, the readers are released, which leaves `t`, and then the Deadline Unit and the Diagnosis Engine
are told. -/
theorem State.tellCompletion_of_released (ht : (s.serveWaiting.releaseReader .a r).releaseReader .b r = t)
    (hy : t.region? r = some y) : s.tellCompletion r = s.told r (s.timed r t y) := by
  obtain ⟨w, sl, q, l, pa, pb, h1⟩ := s.serveWaiting_only
  obtain ⟨l2, a2, b2, pa2, pb2, h2⟩ := s.serveWaiting.releaseReader_only .a r
  obtain ⟨l3, a3, b3, pa3, pb3, h3⟩ := (s.serveWaiting.releaseReader .a r).releaseReader_only .b r
  obtain ⟨l4, g4, h4⟩ := t.deadlineCompletion_only r
  have htime : t.time = s.time := by rw [← ht, h3, h2, h1]
  have hqueue : (t.deadlineCompletion r).diagQueue = s.diagQueue := by rw [h4, ← ht, h3, h2, h1]
  have hscan : (t.deadlineCompletion r).scan = s.scan := by rw [h4, ← ht, h3, h2, h1]
  have hkeeps : s.KeepsFixed (t.deadlineCompletion r) := by
    rw [← ht]
    exact ((serveList_keepsFixed s.waiting s).trans ((State.releaseReader_keepsFixed _ .a r).trans
      (State.releaseReader_keepsFixed _ .b r))).trans (State.deadlineCompletion_keepsFixed _ r)
  have htimed : t.deadlineCompletion r = s.timed r t y := by
    unfold State.timed
    split
    · rfl
    · rename_i hlearn
      rw [State.deadlineCompletion_of_not_learning hy (Bool.eq_false_iff.2 hlearn), htime]
  have htell : s.tellCompletion r = (t.deadlineCompletion r).diagCompletion r := by
    rw [State.tellCompletion, ht]
  rw [htell, State.diagCompletion_eq, ← htimed, State.told]
  simp only [hqueue, hscan, hkeeps.condition, hkeeps.regionCovers]

/-- No access awaits the completion. -/
theorem State.tellCompletion_of_none (hx : s.serveWaiting.region? r = some x)
    (hnone : ∀ q a, ¬ s.serveWaiting.awaits q r a) :
    s.tellCompletion r = s.told r (s.timed r s.serveWaiting x) := by
  refine State.tellCompletion_of_released ?_ hx
  rw [State.releaseReaders_of_one (p := .a) (hnone _), State.releaseReader_of_none (hnone _)]

/-- A body read awaits the completion. -/
theorem State.tellCompletion_of_body (hx : s.serveWaiting.region? r = some x) (ha : s.serveWaiting.awaits p r a)
    (hother : ∀ b, ¬ s.serveWaiting.awaits p.other r b) (hcls : a.cls = .readerBody r) :
    s.tellCompletion r = s.told r (s.timed r
      (s.serveWaiting.setPort p { s.serveWaiting.port p with access := some { a with phase := .held .arbiter } }) x) := by
  refine State.tellCompletion_of_released ?_ ((State.region?_of_live (State.setPort_live _ _ _) r).trans hx)
  rw [State.releaseReaders_of_one hother, State.releaseReader_of_body ha hcls]

/-- A header read with a session awaits the completion. -/
theorem State.tellCompletion_of_session {e : Session} (hx : s.serveWaiting.region? r = some x)
    (hw : x.entry.writer = p.other) (ha : s.serveWaiting.awaits p r a) (hother : ∀ b, ¬ s.serveWaiting.awaits p.other r b)
    (hcls : a.cls = .readerHeader r) (he : sessionIn (s.sessions p) r = some e) :
    s.tellCompletion r = s.told r (s.timed r
      (((s.serveWaiting.endAccess p (some (x.readValue (closeResult e x.header) false))).setSessions p
        ((s.sessions p).filter fun f => f.region != r)).withRegion r { x with holdTimer := none })
      { x with holdTimer := none }) := by
  refine State.tellCompletion_of_released ?_ ?_
  · rw [State.releaseReaders_of_one hother, State.releaseReader_of_header ha hcls,
      State.takeReaderHeader_of_session hx hw (by rwa [s.serveWaiting_sessions]), s.serveWaiting_sessions]
  · rw [State.region?_withRegion (x := x) ?_, if_pos rfl]
    rwa [State.region?_setSessions, State.region?_of_live (State.endAccess_live _ _ _)]

/-- A header read with no session awaits the completion. -/
theorem State.tellCompletion_of_noSession (hx : s.serveWaiting.region? r = some x)
    (hw : x.entry.writer = p.other) (ha : s.serveWaiting.awaits p r a) (hother : ∀ b, ¬ s.serveWaiting.awaits p.other r b)
    (hcls : a.cls = .readerHeader r) (hnone : sessionIn (s.sessions p) r = none) (hsound : tableSound (s.sessions p))
    (howned : ∀ e ∈ s.sessions p, ∃ y, s.region? e.region = some y ∧ y.entry.writer = p.other) :
    ∃ l, s.tellCompletion r = s.told r (s.timed r
          { (s.serveWaiting.endAccess p (some (x.readValue .open false))).setSessions p
              (madeRoom (s.sessions p) ++ [{ region := r, state := .open }]) with live := l }
          (s.serveWaiting.opened r x))
      ∧ l.map Live.conds = s.live.map Live.conds
      ∧ ∀ q, ({ s with live := l } : State).region? q =
          if q = r then some (s.serveWaiting.opened r x)
          else if s.givesUp p q then (s.serveWaiting.region? q).map fun y => { y with holdTimer := none }
          else s.serveWaiting.region? q := by
  have hkeeps : s.KeepsFixed s.serveWaiting := serveList_keepsFixed s.waiting s
  have hgives (q : Fin 64) : s.serveWaiting.givesUp p q ↔ s.givesUp p q := by
    rw [State.givesUp, State.givesUp, s.serveWaiting_sessions]
  have howned' : ∀ e ∈ s.serveWaiting.sessions p, ∃ y, s.serveWaiting.region? e.region = some y
      ∧ y.entry.writer = p.other := fun e hmem => by
    obtain ⟨z, hz, hzw⟩ := howned e (s.serveWaiting_sessions p ▸ hmem)
    obtain ⟨z', hz', hfixed⟩ := hkeeps.record hz
    exact ⟨z', hz', (congrArg (fun f => f.1.writer) hfixed).trans hzw⟩
  obtain ⟨l, htaken, hconds, hregions⟩ := State.takeReaderHeader_of_noSession hx hw (by rwa [s.serveWaiting_sessions])
    (by rwa [s.serveWaiting_sessions]) howned'
  simp only [hgives] at hregions
  refine ⟨l, State.tellCompletion_of_released ?_ ((hregions r).trans (if_pos rfl)), hconds.trans hkeeps.2, hregions⟩
  rw [State.releaseReaders_of_one hother, State.releaseReader_of_header ha hcls, htaken, s.serveWaiting_sessions]

end

/-- Settles O43: by what awaits the completion at the reader's port. -/
theorem completionRearmsTheDeadlineAndWithdrawsTheDiagnosis :
    Obligations.CompletionRearmsTheDeadlineAndWithdrawsTheDiagnosis := by
  intro s r x u hx p released told timed
  have hw : x.entry.writer = p.other := (Port.other_other _).symm
  refine ⟨State.tellCompletion_of_none hx, fun a ha hother => ?_⟩
  intro answered
  refine ⟨State.tellCompletion_of_body hx ha hother, fun hcls hclean => ?_⟩
  cases he : sessionIn (s.sessions p) r with
  | some e =>
    obtain ⟨hgen, hstate, hstale, hresult, hstaged⟩ := x.readValue_fields (closeResult e x.header)
    refine ⟨x.readValue (closeResult e x.header) false, hgen, by rw [hstate, hclean]; rfl, hstale, hstaged,
      fun d hd => ?_, fun h => by cases h⟩
    obtain rfl : e = d := Option.some.inj hd
    exact ⟨by rw [hresult, closeResult_code, hclean]; simp, State.tellCompletion_of_session hx hw ha hother hcls he⟩
  | none =>
    obtain ⟨hgen, hstate, hstale, hresult, hstaged⟩ := x.readValue_fields .open
    refine ⟨x.readValue .open false, hgen, by rw [hstate, hclean]; rfl, hstale, hstaged, fun d hd => (nomatch hd),
      fun _ hsound howned => ?_⟩
    intro y
    refine ⟨hresult, ?_⟩
    have hopened : u.opened r x = y := by
      simp only [State.opened, u, s.serveWaiting_time, y]
    rw [← hopened]
    exact State.tellCompletion_of_noSession hx hw ha hother hcls he (s.sessionsSound_iff.1 hsound p) howned

end Sys2Proof.Machine
end

section
/-! The end of a drain and the end of an unload (O51). -/

namespace Sys2Proof.Machine

/-- The Commit Queue is empty, no commit and no scan is in progress, and the Record Writer holds nothing (R152). -/
abbrev State.drained (s : State) : Prop :=
  s.commitQueue = [] ∧ s.commit = none ∧ s.scan = none ∧ s.log.inHand = none ∧ s.log.queue = []

theorem State.drainEnds_iff (s : State) :
    s.drainEnds = true ↔ s.part = .draining ∧ s.ldr.command.isSome = true ∧ s.ldr.work = .idle ∧ s.drained := by
  simp [State.drainEnds, State.drained, and_assoc]

section
variable {s : State}

theorem exec_drainEnd_of_ends (hr : s.running = true) (h : s.drainEnds = true) : exec .drainEnd s = .next s.endDrain := by
  simp [exec, execDrainEnd, hr, h]

theorem exec_drainEnd_of_not_ends (h : s.drainEnds = false) : exec .drainEnd s = .next s := by
  simp [exec, execDrainEnd, h]

/-- A drain that ends with LOAD pending sets the live table aside and starts the shadow read (R152). -/
theorem State.endDrain_of_load (h : s.ldr.command = some .load) :
    s.endDrain =
      { s with
        part := .loading
        live := none
        retained := s.live.map fun l => l.mapRegions Region.disarm
        ldr := { s.ldr with command := none, work := .shadowRead, shadow := some [], origin := some .active } } := by
  simp only [State.endDrain, h]
  rfl

/-- A drain that ends with UNLOAD pending asks for the clearing write (R152). -/
theorem State.endDrain_of_unload (h : s.ldr.command = some .unload) :
    s.endDrain =
      { s with
        live := s.live.map fun l => l.mapRegions Region.disarm
        ldr := { s.ldr with work := .clearUnload } } := by
  unfold State.endDrain
  rw [h]
  rfl

/-- The completion of the clearing write of an unload outside PFAIL. -/
theorem State.completeCycle_of_unload {c : Cycle} (hp : s.part ≠ .pfail) (hwork : s.ldr.work = .clearUnload)
    (hc : s.cycle = some c) (hq : c.req = .loader) (hw : c.dir = .write) :
    s.completeCycle c = ({ s with mem := memWrite s.mem c.addr c.data, cycle := none } : State).finishUnload := by
  simp only [State.completeCycle, hq, State.loaderDone, State.loaderAdvance, hwork, State.memCarried_of_write hc hw]
  rw [if_neg hp]

end

/-- Settles O51: by whether the drain ends, and by the command pending. -/
theorem drainEndAndUnloadEndActOnTheCommand : Obligations.DrainEndAndUnloadEndActOnTheCommand := by
  intro s hr hpart drained disarmed
  have ends {c : Command} (hidle : s.ldr.work = .idle) (hd : drained) (hc : s.ldr.command = some c) :
      s.drainEnds = true := s.drainEnds_iff.2 ⟨hpart, by rw [hc]; rfl, hidle, hd⟩
  refine ⟨fun _ hnot => ?_, fun hidle hd hc => ?_, fun hidle hd hc => ?_, fun hdue hwork hcycle => ?_⟩
  · refine exec_drainEnd_of_not_ends (Bool.eq_false_iff.2 fun h => ?_)
    obtain ⟨-, -, -, hd⟩ := s.drainEnds_iff.1 h
    exact hnot hd
  · rw [exec_drainEnd_of_ends hr (ends hidle hd hc), State.endDrain_of_load hc]
    rfl
  · rw [exec_drainEnd_of_ends hr (ends hidle hd hc), State.endDrain_of_unload hc]
    rfl
  · have hcarried : s.unloadCarried = true := by simp [State.unloadCarried, State.carries, hcycle, hwork]
    have hexec : exec .unloadEnd s = .next (s.completeIf s.unloadCarried) := rfl
    rw [hexec, State.completeIf_of_cycle hr hdue hcycle hcarried,
      State.completeCycle_of_unload (by simp [hpart]) hwork hcycle rfl rfl]
    rfl

end Sys2Proof.Machine
end

section
/-! The completion of a commit: the CLOSING write's effect, and what it leaves of every region (O42). -/

namespace Sys2Proof.Machine

/-- What a completion tells the other blocks leaves each region's entry, generation, header state and stale flag. -/
theorem State.tellCompletion_keepsFixed (s : State) (r : Fin 64) : s.KeepsFixed (s.tellCompletion r) :=
  ((((serveList_keepsFixed s.waiting s).trans (State.releaseReader_keepsFixed _ .a r)).trans
    (State.releaseReader_keepsFixed _ .b r)).trans (State.deadlineCompletion_keepsFixed _ r)).then_live
    (State.diagCompletion_live _ r)

section
variable {s : State} {c : CommitRec} {cy : Cycle}

/-- COMMIT_COMPLETION while the memory port carries the CLOSING write: the write is stored and the commit completes. -/
theorem exec_commitCompletion_of_closing (hr : s.running = true) (hd : s.pins.pfailDue = false) (hc : s.commit = some c)
    (hstep : c.step = .closing) (hcy : s.cycle = some cy) (hq : cy.req = .commit) (hw : cy.dir = .write) :
    exec .commitCompletion s =
      .next (({ s with mem := memWrite s.mem cy.addr cy.data, cycle := none } : State).finishCommit c) := by
  have hclosing : c.atClosing = true := by simp [CommitRec.atClosing, hstep]
  have hcarried : s.closingCarried = true := by simp [State.closingCarried, State.carries, hcy, hq, hc, hclosing]
  have hexec : exec .commitCompletion s = .next (s.completeIf s.closingCarried) := rfl
  rw [hexec, State.completeIf_of_cycle hr hd hcy hcarried]
  simp only [State.completeCycle, hq, State.commitWriteDone, hc, State.memCarried_of_write hcy hw]
  rw [if_pos hclosing]

/-- The completed commit, of a region that has a record: the record, the slot and the engine, and outside PFAIL the other
blocks (R83, R160). -/
theorem State.finishCommit_eq {x : Region} (hx : s.region? c.region = some x) :
    s.finishCommit c =
      let done : State := ({ s with commit := none, slots := s.slots.set c.slot Slot.empty } : State).withRegion c.region
        { x with gen := c.oldGen + 1, header := .clean, stale := false }
      if s.part = .pfail then done else done.tellCompletion c.region := by
  unfold State.finishCommit
  rw [State.updRegion_eq hx]
  rfl

end

/-- Settles O42: the row is `finishCommit` on the state with the CLOSING write stored. -/
theorem commitCompletionAdvancesTheGeneration : Obligations.CommitCompletionAdvancesTheGeneration := by
  intro s c cy x hr hd hc hstep hcy hq hw hx done
  have hexec : exec .commitCompletion s = .next (if s.part = .pfail then done else done.tellCompletion c.region) := by
    rw [exec_commitCompletion_of_closing hr hd hc hstep hcy hq hw]
    exact congrArg Host.Outcome.next (State.finishCommit_eq hx)
  refine ⟨fun hp => by rw [hexec, if_pos hp], fun hp => ⟨by rw [hexec, if_neg hp], ?_⟩⟩
  obtain ⟨w, sl, q, l, pa, pb, a, b, g, dq, n, htold⟩ := done.tellCompletion_only c.region
  refine ⟨by rw [htold], by rw [htold]; rfl, by rw [htold]; rfl, fun r y hy => ?_⟩
  obtain ⟨z, hz, hfixed⟩ := (done.tellCompletion_keepsFixed c.region).record hy
  simp only [Region.fixed, Prod.mk.injEq] at hfixed
  exact ⟨z, hz, hfixed⟩

end Sys2Proof.Machine
end

section
/-! RESET_N low: the pulse that is timed, the reset that takes effect, and the end of a short pulse (O58). -/

namespace Sys2Proof.Machine

section
variable {s : State} {n : Nat}

/-! ## A PFAIL_N level still to be taken (R157, log 13) -/

/-- A fall that is taken leaves the lines and the count of periods. -/
theorem State.enterPfail_pins (s : State) : s.enterPfail.pins = { s.pins with pfailDue := false } := by
  obtain ⟨a, b, h⟩ := s.endByPfail_only .a
  obtain ⟨a', b', h'⟩ := (s.endByPfail .a).endByPfail_only .b
  unfold State.enterPfail
  rw [h', h]
  rfl

theorem State.takeDueFall_of_not_due (h : s.pins.pfailDue = false) : s.takeDueFall = s := by
  simp [State.takeDueFall, h]

theorem State.takeDueFall_of_due (h : s.pins.pfailDue = true) (hp : s.part ≠ .pfail) : s.takeDueFall = s.enterPfail := by
  simp [State.takeDueFall, State.takeFall, h, hp]

/-- RESET_N low takes a due fall first, whatever the count of periods. -/
theorem State.resetLow_of_due (hr : s.running = true) (hd : s.pins.pfailDue = true) (hp : s.part ≠ .pfail) (n : Nat) :
    s.resetLow n = s.enterPfail.resetLow n := by
  have hpins := s.enterPfail_pins
  have htaken : s.enterPfail.takeDueFall = s.enterPfail := State.takeDueFall_of_not_due (by rw [hpins])
  simp only [State.running, Bool.and_eq_true, Bool.not_eq_true'] at hr
  simp only [State.resetLow, htaken, State.takeDueFall_of_due hd hp]
  simp [hpins, Pins.lowPeriods, hr]

/-! ## The pulse (R180) -/

/-- A fall of RESET_N in a reset that has taken effect is no event (log 1). -/
theorem State.resetLow_of_taken (h : s.pins.resetTaken = true) (n : Nat) : s.resetLow n = s := if_pos h

theorem Pins.lowPeriods_of_refclk {q : Pins} (h : q.refclk = true) (n : Nat) :
    q.lowPeriods n = max n q.resetLowPeriods := if_pos h

theorem Pins.lowPeriods_of_stopped {q : Pins} (h : q.refclk = false) (n : Nat) : q.lowPeriods n = q.resetLowPeriods :=
  if_neg (by simp [h])

/-- A pulse of fewer than 160 counted periods, or one with REFCLK stopped, is timed. -/
theorem State.resetLow_of_short (hr : s.running = true) (hd : s.pins.pfailDue = false)
    (h : ¬ (s.pins.refclk = true ∧ 160 ≤ s.pins.lowPeriods n)) :
    s.resetLow n = { s with pins := { s.pins with resetN := false, resetLowPeriods := s.pins.lowPeriods n } } := by
  simp only [State.running, Bool.and_eq_true, Bool.not_eq_true'] at hr
  obtain ⟨hpowered, htaken⟩ := hr
  unfold State.resetLow
  rw [if_neg (by simp [htaken]), if_neg h, if_pos hpowered, State.takeDueFall_of_not_due hd]

/-- From 160 counted periods on the reset takes effect. -/
theorem State.resetLow_of_long (ht : s.pins.resetTaken = false) (hd : s.pins.pfailDue = false)
    (hf : s.pins.refclk = true) (h : 160 ≤ s.pins.lowPeriods n) : s.resetLow n = s.resetTakes := by
  unfold State.resetLow
  rw [if_neg (by simp [ht]), if_pos ⟨hf, h⟩, State.takeDueFall_of_not_due hd]

/-- Memory with the carried write made, by the cycle carried (R82, R134, R178). -/
theorem State.memCarried_eq (s : State) :
    s.memCarried = match s.cycle with
      | some { dir := .write, addr := a, data := w, .. } => memWrite s.mem a w
      | _ => s.mem := by
  unfold State.memCarried
  rcases s.cycle with _ | ⟨q, d, a, w⟩
  · rfl
  · cases d <;> rfl

/-! ## The end of a short pulse (R180) -/

theorem exec_shortResetPulseEnd_of_short (hr : s.running = true) (h : s.pins.resetLowPeriods < 160) (low : Bool) :
    exec (.shortResetPulseEnd low) s = .next (s.endShortPulse low) := by
  simp [exec, execShortResetPulseEnd, hr, h]

theorem exec_shortResetPulseEnd_of_long (h : 160 ≤ s.pins.resetLowPeriods) (low : Bool) :
    exec (.shortResetPulseEnd low) s = .next s := by
  simp [exec, execShortResetPulseEnd, h]

/-- RESET_N is high again and nothing is counted; a low PFAIL_N is taken as a fall, unless the part is in PFAIL. -/
theorem State.endShortPulse_eq (s : State) (low : Bool) :
    s.endShortPulse low =
      let ended : State := { s with pins := { s.pins with resetN := true, resetLowPeriods := 0, pfailN := !low } }
      if low = true ∧ s.part ≠ .pfail then ended.enterPfail else ended := by
  unfold State.endShortPulse State.takeFall
  cases low
  · simp
  · by_cases hp : s.part = .pfail <;> simp [hp]

end

/-- Settles O58: RESET_N_FALLING is `resetLow`, by the part's lines and the count. -/
theorem resetTakesEffectAfter160Periods : Obligations.ResetTakesEffectAfter160Periods := by
  intro s n counted recording
  have hexec (t : State) : exec (.resetNFalling n) t = .next (t.resetLow n) := rfl
  simp only [hexec]
  refine ⟨fun ht => ?_, fun hr hd hp => ?_, fun hr hd hstopped => ?_, fun hr hd hf hshort => ?_, fun ht hd hf hlong => ?_,
    fun low hr => ⟨fun hshort => ?_, fun hlong => exec_shortResetPulseEnd_of_long hlong low⟩⟩
  · rw [State.resetLow_of_taken ht]
  · rw [State.resetLow_of_due hr hd hp]
  · rw [State.resetLow_of_short hr hd (by simp [hstopped]), Pins.lowPeriods_of_stopped hstopped]
  · have hcount : s.pins.lowPeriods n = counted := Pins.lowPeriods_of_refclk hf n
    rw [State.resetLow_of_short hr hd (by omega), hcount]
  · have hcount : s.pins.lowPeriods n = counted := Pins.lowPeriods_of_refclk hf n
    rw [State.resetLow_of_long ht hd hf (by omega), State.resetTakes, State.memCarried_eq]
    rfl
  · rw [exec_shortResetPulseEnd_of_short hr hshort, State.endShortPulse_eq]

end Sys2Proof.Machine
end

section
/-! The rows of the Status Block as arrivals (O13), and the alert unit's commands (O19). -/

namespace Sys2Proof.Machine

/-- An access with a strobe low is offered in the direction that WE_N gives (R166). -/
theorem exec_accessArrival_write (p : Port) (oe : Bool) (a : Addr) (v : Word) (s : State) :
    exec (.accessArrival p oe true a v) s = .next (s.offer p .write a v) := rfl

theorem exec_accessArrival_read (p : Port) (a : Addr) (v : Word) (s : State) :
    exec (.accessArrival p true false a v) s = .next (s.offer p .read a v) := rfl

/-- Settles O13: a row and the arrival it names offer the same access. -/
theorem statusRowsAreArrivals : Obligations.StatusRowsAreArrivals := by
  intro s p v
  simp only [exec_accessArrival_write, exec_accessArrival_read]
  refine ⟨rfl, rfl, rfl, rfl, rfl, fun w hw => ?_⟩
  simp only [exec, execStatusBlockWriteRefused, hw]
  rfl

/-! ## The line (R127) -/

/-- The line after it is evaluated again. -/
theorem State.evalAlert_eq (s : State) :
    s.evalAlert =
      { s with
        alert := { s.alert with asserted := lineFor s.part s.alert.pending s.alert.mask s.alert.holdoff.isSome } } := by
  have hline : s.alert.holdoff.isNone = !s.alert.holdoff.isSome := by cases s.alert.holdoff <;> rfl
  rw [State.evalAlert, hline]
  rfl

/-! ## Writes of the Status Block by port A (R136) -/

/-- Outside LOADING and PFAIL a write of a Status Block word at a ready port is the Status Block's to take. -/
theorem State.offer_of_statusWrite {s : State} {p : Port} (h : s.portReady p) (hl : s.part ≠ .loading)
    (hp : s.part ≠ .pfail) (w : Fin 16) (v : Word) :
    s.offer p .write (statusAddr w) v =
      ((s.strobe p).register p (s.newAccess .write (statusAddr w) v)).statusWrite p (statusAddr w) v := by
  have haddr := statusAddr_toNat w
  have hnew : (s.strobe p).newAccess .write (statusAddr w) v = s.newAccess .write (statusAddr w) v := by cases p <;> rfl
  rw [State.offer_of_ready h, State.arrive, hnew, State.dispatch_of_status (by simpa using hp)
    (by rw [State.newAccess_addr]; omega), State.statusAccess]
  simp only [State.newAccess_dir, State.newAccess_addr, State.newAccess_value, State.register_part, State.strobe_part,
    if_neg hl]

theorem State.statusWrite_of_maskWord (s : State) (v : Word) :
    s.statusWrite .a (statusAddr 2) v = (s.endAccess .a none).setMask v := by
  unfold State.statusWrite
  rw [statusWord_statusAddr]
  rfl

theorem State.statusWrite_of_pendingWord (s : State) (v : Word) :
    s.statusWrite .a (statusAddr 3) v = (s.endAccess .a none).acknowledge v := by
  unfold State.statusWrite
  rw [statusWord_statusAddr]
  rfl

theorem State.statusWrite_of_holdoffWord (s : State) (v : Word) :
    s.statusWrite .a (statusAddr 4) v =
      if v.toNat ≤ 255 then { s.endAccess .a none with alert := { s.alert with n := v.extractLsb' 0 8 } }
      else (s.endAccess .a none).raise (.protect .a (statusAddr 4) v) := by
  unfold State.statusWrite
  rw [statusWord_statusAddr]
  rfl

section
variable {s : State} (hready : s.portReady .a) (hl : s.part ≠ .loading) (hp : s.part ≠ .pfail) (v : Word)
include hready hl hp

/-- A write of ALERT MASK is answered and sets the mask set (R129). -/
theorem exec_alertMaskWrite_of_ready : exec (.alertMaskWrite v) s = .next ((s.answered .a none).setMask v) := by
  simp only [exec, execAlertMaskWrite, State.offer_of_statusWrite hready hl hp, State.statusWrite_of_maskWord,
    State.register_endAccess]

/-- A write of ALERT PENDING is answered and acknowledges the named causes (R130). -/
theorem exec_acknowledge_of_ready : exec (.acknowledge v) s = .next ((s.answered .a none).acknowledge v) := by
  simp only [exec, execAcknowledge, State.offer_of_statusWrite hready hl hp, State.statusWrite_of_pendingWord,
    State.register_endAccess]

/-- A write of ALERT HOLDOFF is answered and sets n, or is refused (R131). -/
theorem exec_alertHoldoffWrite_of_ready :
    exec (.alertHoldoffWrite v) s = .next
      (if v.toNat ≤ 255 then { s.answered .a none with alert := { s.alert with n := v.extractLsb' 0 8 } }
       else (s.answered .a none).raise (.protect .a (statusAddr 4) v)) := by
  simp only [exec, execAlertHoldoffWrite, State.offer_of_statusWrite hready hl hp, State.statusWrite_of_holdoffWord,
    State.register_endAccess, State.register_alert, State.strobe_alert]

end

/-! ## The holdoff's expiry (R131) -/

/-- A timer is due exactly when its count is reached with REFCLK running (R88, R180). -/
theorem State.due_iff (s : State) (t : Option Time) : s.due t = true ↔ s.pins.refclk = true ∧ t = some s.time := by
  simp [State.due]

/-- The holdoff expires exactly when it runs, its count is reached and REFCLK runs, in a part that takes events. -/
theorem State.holdoffDue_iff (s : State) :
    s.holdoffDue = true ↔ s.running = true ∧ s.pins.refclk = true ∧ s.alert.holdoff = some s.time := by
  rw [State.holdoffDue, Bool.and_eq_true, State.due_iff]

theorem exec_holdoffExpiry_of_due {s : State} (h : s.holdoffDue = true) :
    exec .holdoffExpiry s = .next s.endHoldoff := by
  simp [exec, execHoldoffExpiry, h]

theorem exec_holdoffExpiry_of_not_due {s : State} (h : s.holdoffDue = false) : exec .holdoffExpiry s = .next s := by
  simp [exec, execHoldoffExpiry, h]

/-- Settles O19: each write answers port A and updates the alert unit, whose line is `lineFor` of what it then holds. -/
theorem alertCommandsSetTheAlertUnit : Obligations.AlertCommandsSetTheAlertUnit := by
  refine ⟨fun s v hready hl hp => ⟨?_, ?_, ?_⟩, fun s => ⟨fun hr hclk ht => ?_, fun h => ?_⟩⟩
  · rw [exec_alertMaskWrite_of_ready hready hl hp, State.setMask, State.evalAlert_eq]
    rfl
  · have hruns : (if s.alert.n = 0#8 then none else some (s.after (s.alert.n.toNat * 64))).isSome
        = decide (s.alert.n ≠ 0#8) := by
      by_cases hn : s.alert.n = 0#8 <;> simp [hn]
    rw [exec_acknowledge_of_ready hready hl hp, State.acknowledge, State.evalAlert_eq, ← hruns]
    rfl
  · exact exec_alertHoldoffWrite_of_ready hready hl hp v
  · rw [exec_holdoffExpiry_of_due (s.holdoffDue_iff.2 ⟨hr, hclk, ht⟩), State.endHoldoff, State.evalAlert_eq]
    rfl
  · refine exec_holdoffExpiry_of_not_due (Bool.eq_false_iff.2 fun hd => ?_)
    obtain ⟨hr, hclk, ht⟩ := s.holdoffDue_iff.1 hd
    rcases h with h | h | h
    · simp [hr] at h
    · simp [hclk] at h
    · exact h ht

end Sys2Proof.Machine
end

section
/-! The deadline timer's expiry (O35). -/

namespace Sys2Proof.Machine

theorem PartState.regionsLive_iff (q : PartState) : q.regionsLive = true ↔ q = .active ∨ q = .draining := by
  cases q <;> simp [PartState.regionsLive]

/-- A deadline expires exactly when it is armed, its count is reached and REFCLK runs, in a part that takes events and has
live regions. -/
theorem State.deadlineDue_iff (s : State) (r : Fin 64) :
    s.deadlineDue r = true ↔ s.running = true ∧ s.pins.refclk = true ∧ (s.part = .active ∨ s.part = .draining)
      ∧ ∃ x, s.region? r = some x ∧ x.deadline = some s.time := by
  unfold State.deadlineDue
  cases s.region? r with
  | none => simp
  | some x =>
    simp only [Bool.and_eq_true, PartState.regionsLive_iff, State.due_iff, Option.some.injEq, exists_eq_left']
    tauto

theorem exec_deadlineExpiry_of_due {s : State} {r : Fin 64} (h : s.deadlineDue r = true) :
    exec (.deadlineExpiry r) s = .next (s.expireDeadline r) := by
  simp [exec, execDeadlineExpiry, h]

theorem exec_deadlineExpiry_of_not_due {s : State} {r : Fin 64} (h : s.deadlineDue r = false) :
    exec (.deadlineExpiry r) s = .next s := by
  simp [exec, execDeadlineExpiry, h]

/-- A region is IDLE exactly when it neither waits in the Diagnosis Queue nor is scanned (R107). -/
theorem State.diagStatus_eq_idle (s : State) (r : Fin 64) :
    s.diagStatus r = .idle ↔ r ∉ s.diagQueue ∧ ∀ c, s.scan = some c → c.region ≠ r := by
  have hscan : (s.scan.any fun c => c.region == r) = true ↔ ¬ ∀ c, s.scan = some c → c.region ≠ r := by
    cases s.scan <;> simp
  unfold State.diagStatus
  by_cases hq : r ∈ s.diagQueue
  · simp [hq]
  · by_cases hs : ∀ c, s.scan = some c → c.region ≠ r
    · rw [if_neg (by simpa using hq), if_neg (mt hscan.1 (not_not_intro hs))]
      exact iff_of_true rfl ⟨hq, hs⟩
    · rw [if_neg (by simpa using hq), if_pos (hscan.2 hs)]
      exact iff_of_false (by decide) fun h => hs h.2

@[simp] theorem State.raise_diagQueue (s : State) (d : FaultDetail) : (s.raise d).diagQueue = s.diagQueue := by
  obtain ⟨l, a, h⟩ := s.raise_only d
  rw [h]

/-- The expiry of the deadline of a region that has a record (R92, R107). -/
theorem State.expireDeadline_eq {s : State} {r : Fin 64} {x : Region} (hx : s.region? r = some x) :
    s.expireDeadline r =
      let t := (s.withRegion r { x with stale := true, deadline := none }).raise (.stale r x.entry.tag x.entry.period)
      if s.part = .active ∧ 0 < x.entry.condCount ∧ r ∉ s.diagQueue ∧ (∀ c, s.scan = some c → c.region ≠ r) then
        { t with diagQueue := s.diagQueue ++ [r] }
      else t := by
  simp only [State.expireDeadline, hx, State.diagStatus_eq_idle, State.updRegion_eq hx, State.raise_diagQueue]
  rfl

/-- Settles O35: by whether the expiry is there to be taken. -/
theorem deadlineExpiryMarksStaleAndRequestsADiagnosis :
    Obligations.DeadlineExpiryMarksStaleAndRequestsADiagnosis := by
  refine fun s r => ⟨fun x hr hclk hpart hx ht => ?_, fun h => ?_⟩
  · rw [exec_deadlineExpiry_of_due ((s.deadlineDue_iff r).2 ⟨hr, hclk, hpart, x, hx, ht⟩), State.expireDeadline_eq hx]
  · refine exec_deadlineExpiry_of_not_due (Bool.eq_false_iff.2 fun hd => ?_)
    obtain ⟨hr, hclk, hpart, x, hx, ht⟩ := (s.deadlineDue_iff r).1 hd
    rcases h with h | h | ⟨ha, hdr⟩ | h
    · simp [hr] at h
    · simp [hclk] at h
    · exact hpart.elim ha hdr
    · exact h x hx ht

end Sys2Proof.Machine
end

section
/-! A learning sample and the write-back it hands over (O44). -/

namespace Sys2Proof.Machine

/-! ## The write-back of a learned period (R100, R123) -/

theorem any_isWriteBackOf (q : List Item) (r : Fin 64) :
    q.any (Item.isWriteBackOf r) = true ↔ ∃ n, .writeBack r n ∈ q := by
  simp only [List.any_eq_true]
  constructor
  · rintro ⟨i, hi, h⟩
    cases i with
    | writeBack r' n =>
      obtain rfl : r' = r := by simpa [Item.isWriteBackOf] using h
      exact ⟨n, hi⟩
    | record f => simp [Item.isWriteBackOf] at h
    | torn b g => simp [Item.isWriteBackOf] at h
  · rintro ⟨n, hn⟩
    exact ⟨_, hn, by simp [Item.isWriteBackOf]⟩

/-- The first write-back of the region takes the new period and keeps its place. -/
theorem replacePeriod_append {r : Fin 64} {pre : List Item} (hpre : ∀ o, .writeBack r o ∉ pre) (n old : Word)
    (post : List Item) :
    replacePeriod r n (pre ++ .writeBack r old :: post) = pre ++ .writeBack r n :: post := by
  induction pre with
  | nil => simp [replacePeriod]
  | cons i rest ih =>
    have hrest := ih fun o ho => hpre o (List.mem_cons_of_mem _ ho)
    cases i with
    | writeBack r' n' =>
      have hr : r' ≠ r := fun h => hpre n' (by simp [h])
      simp [replacePeriod, hr, hrest]
    | record f => simp [replacePeriod, hrest]
    | torn b g => simp [replacePeriod, hrest]

section
variable {s : State} {r : Fin 64}

theorem State.handWriteBack_of_waiting {pre post : List Item} {old : Word}
    (hq : s.log.queue = pre ++ .writeBack r old :: post) (hpre : ∀ o, .writeBack r o ∉ pre) (n : Word) :
    s.handWriteBack r n = { s with log := { s.log with queue := pre ++ .writeBack r n :: post } } := by
  have hany : s.log.queue.any (Item.isWriteBackOf r) = true := (any_isWriteBackOf _ r).2 ⟨old, by simp [hq]⟩
  rw [State.handWriteBack, if_pos hany, hq, replacePeriod_append hpre]

theorem State.handWriteBack_of_none (h : ∀ o, .writeBack r o ∉ s.log.queue) (n : Word) :
    s.handWriteBack r n = s.enqueue (.writeBack r n) :=
  if_neg fun hany => ((any_isWriteBackOf _ r).1 hany).elim h

theorem State.handWriteBack_of_busy (h : ∀ o, .writeBack r o ∉ s.log.queue) (hbusy : s.log.inHand.isSome = true)
    (n : Word) :
    s.handWriteBack r n = { s with log := { s.log with queue := s.log.queue ++ [.writeBack r n] } } := by
  rw [State.handWriteBack_of_none h, State.enqueue_of_busy _ hbusy]

theorem State.handWriteBack_of_idle (hq : s.log.queue = []) (hidle : s.log.inHand = none) (hp : s.part ≠ .pfail)
    (n : Word) :
    s.handWriteBack r n =
      { s with log := { s.log with queue := [], inHand := some (.writeBack r n 0 0#16 0#16) } } := by
  rw [State.handWriteBack_of_none (by simp [hq]), State.enqueue_of_idle _ hp hidle hq, ← hq]
  rfl

end

/-! ## The interval and the learned period (R98, R99) -/

/-- The interval in ms is the smallest whole number of ms not below it. -/
theorem intervalMs_bounds (last now : Time) :
    intervalMs last now * 1000 < (now - last).toNat + 1000 ∧ (now - last).toNat ≤ intervalMs last now * 1000 := by
  unfold intervalMs
  omega

/-- The learned period is the smallest whole number of ms not below longest × (8 + m) ÷ 8, and at most 65535. -/
theorem learnedPeriod_bounds (longest m : Nat) :
    learnedPeriod longest m ≤ 65535
      ∧ (learnedPeriod longest m < 65535 → longest * (8 + m) ≤ 8 * learnedPeriod longest m)
      ∧ 8 * learnedPeriod longest m < longest * (8 + m) + 8 := by
  unfold learnedPeriod
  generalize longest * (8 + m) = product
  omega

/-! ## The sample (R97 to R100) -/

theorem State.withRegion_withRegion (s : State) (r : Fin 64) (x y : Region) :
    (s.withRegion r x).withRegion r y = s.withRegion r y := by
  cases h : s.live <;> simp [State.withRegion, h]

section
variable {s : State} {r : Fin 64} {x : Region} (hx : s.region? r = some x) (hlearn : x.entry.learn = true)
include hx hlearn

/-- The first sample records the time alone. -/
theorem State.deadlineCompletion_of_first (h : x.lastCommit = none) :
    s.deadlineCompletion r = s.withRegion r { x with lastCommit := some s.time } := by
  simp only [State.deadlineCompletion, hx, hlearn, if_true, State.takeSample, h, State.updRegion_eq hx]

/-- A sample of an interval no longer than the longest records the time alone. -/
theorem State.deadlineCompletion_of_shorter {last : Time} (h : x.lastCommit = some last)
    (hle : intervalMs last s.time ≤ x.longest) :
    s.deadlineCompletion r = s.withRegion r { x with lastCommit := some s.time } := by
  simp only [State.deadlineCompletion, hx, hlearn, if_true, State.takeSample, h, State.updRegion_eq hx]
  rw [if_neg (by omega)]

/-- A sample of a longer interval raises the longest, and a period that differs from the last proposed one is handed over. -/
theorem State.deadlineCompletion_of_longer {last : Time} {m : Nat} (h : x.lastCommit = some last)
    (hm : s.ldr.margin = some m) (hlt : x.longest < intervalMs last s.time) :
    let ms := intervalMs last s.time
    let n := learnedPeriod ms m
    s.deadlineCompletion r =
      if n = x.proposed then s.withRegion r { x with lastCommit := some s.time, longest := ms }
      else (s.withRegion r { x with lastCommit := some s.time, longest := ms, proposed := n }).handWriteBack r
        (BitVec.ofNat 16 n) := by
  have htimed := State.region?_withRegion hx { x with lastCommit := some s.time } r
  rw [if_pos rfl] at htimed
  have hm' : (s.withRegion r { x with lastCommit := some s.time }).ldr.margin = some m := hm
  simp only [State.deadlineCompletion, hx, hlearn, if_true, State.takeSample, h, State.updRegion_eq hx, if_pos hlt,
    State.raiseLongest, State.updRegion_eq htimed, State.withRegion_withRegion, hm', Option.getD_some]

end

/-- Settles O44: by whether the sample is the first, whether its interval is the longest, and where its write-back goes. -/
theorem learningSampleProposesAPeriod : Obligations.LearningSampleProposesAPeriod := by
  intro s r x m hx hlearn hm _ _
  refine ⟨State.deadlineCompletion_of_first hx hlearn, fun last hlast => ?_⟩
  obtain ⟨hupper, hlower⟩ := intervalMs_bounds last s.time
  refine ⟨intervalMs last s.time, hupper, hlower, State.deadlineCompletion_of_shorter hx hlearn hlast, fun hlt => ?_⟩
  obtain ⟨hmax, hceil, hleast⟩ := learnedPeriod_bounds (intervalMs last s.time) m
  have hlonger := State.deadlineCompletion_of_longer hx hlearn hlast hm hlt
  refine ⟨learnedPeriod (intervalMs last s.time) m, hmax, hceil, hleast, fun hn => ?_, fun hn => ?_⟩
  · rw [hlonger, if_pos hn]
  · rw [hlonger, if_neg hn]
    refine ⟨fun pre post old hq hpre => ?_, fun hnone hbusy => ?_, fun hq hidle hp => ?_⟩
    · exact State.handWriteBack_of_waiting (s := s.withRegion r _) hq hpre _
    · exact State.handWriteBack_of_busy (s := s.withRegion r _) hnone hbusy _
    · exact State.handWriteBack_of_idle (s := s.withRegion r _) hq hidle hp _

end Sys2Proof.Machine
end

section
/-! A load's failure (O56). -/

namespace Sys2Proof.Machine

/-- A region as a failed reload returns it, by what its entry declares (R91, R95, R103). -/
theorem Region.returned_eq (x : Region) (now : Time) :
    x.returned now =
      { x with
        lastCommit := none
        deadline :=
          if 0 < x.entry.period ∧ x.entry.learn = false then some (now + BitVec.ofNat 32 (x.entry.period * 1000))
          else none } := by
  have hw : x.entry.watched = true ↔ 0 < x.entry.period ∧ x.entry.learn = false := by simp [Entry.watched]
  unfold Region.returned Region.arm
  by_cases h : x.entry.watched = true
  · rw [if_pos h, if_pos (hw.1 h)]
  · rw [if_neg h, if_neg (mt hw.2 h)]

section
variable {s : State} (reason : LoadResult)

/-- The failure of a load from BYPASS. -/
theorem State.failLoad_of_bypass (ho : s.ldr.origin = some .bypass) :
    s.failLoad reason =
      ({ s.raise (.load reason.code reason.index) with
          part := .bypass
          ldr := { s.ldr with work := .idle, shadow := none, result := reason, origin := none } } : State).releaseLoad := by
  obtain ⟨l, a, h⟩ := s.raise_only (.load reason.code reason.index)
  simp only [State.failLoad, h, State.dropShadow, State.returnToOrigin, ho]

/-- The failure of a reload puts the retained table in force again. -/
theorem State.failLoad_of_active (ho : s.ldr.origin = some .active) :
    s.failLoad reason =
      ({ s.raise (.load reason.code reason.index) with
          part := .active
          retained := none
          live := s.retained.map fun l => l.mapRegions fun x => x.returned s.time
          ldr := { s.ldr with work := .idle, shadow := none, result := reason, origin := none } } : State).releaseLoad := by
  obtain ⟨l, a, h⟩ := s.raise_only (.load reason.code reason.index)
  simp only [State.failLoad, h, State.dropShadow, State.returnToOrigin, ho]

end

/-- Settles O56: the row is `failLoad` on the state with the clearing write stored. -/
theorem loadFailureReturnsToTheOrigin : Obligations.LoadFailureReturnsToTheOrigin := by
  intro s reason hr hd hp hwork hc raised ended
  have hcarried : s.failureCarried = true := by simp [State.failureCarried, State.carries, hc, hwork]
  have hexec : exec .loadFailure s =
      .next (({ s with mem := memWrite s.mem 0x3F001#18 0#16, cycle := none } : State).failLoad reason) := by
    simp only [exec, execLoadFailure, State.completeIf_of_cycle hr hd hc hcarried,
      State.completeCycle_of_loaderWrite hc (by simp [hp]), State.loaderAdvance, hwork]
  refine ⟨fun ho => ?_, fun ho => ?_⟩
  · exact hexec.trans (congrArg Host.Outcome.next (State.failLoad_of_bypass reason ho))
  · simp only [← Region.returned_eq]
    exact hexec.trans (congrArg Host.Outcome.next (State.failLoad_of_active reason ho))

end Sys2Proof.Machine
end

section
/-! The Record Writer: the accesses of its items, the words of a record, and how an item moves on and ends (O48). -/

namespace Sys2Proof.Machine

/-! ## The words of a record (Table 8-10) -/

/-- Word 1 of a fault, its fields in the order of Table 8-10. -/
theorem FaultDetail.word1_eq {f : FaultDetail} {total : Nat}
    (h : 4096 * f.kind + 64 * f.regionField + 32 * f.portField + 16 * f.dirField + 4 * (f.addrField.toNat / 65536)
      + 2 * f.outcomeField + f.recoveredField = total) : f.word1 = BitVec.ofNat 16 total := by
  subst h
  refine congrArg (BitVec.ofNat 16) ?_
  omega

/-- A fault that names no access and no outcome has its kind and its region alone in word 1. -/
theorem FaultDetail.word1_of_noAccess {f : FaultDetail} (hp : f.portField = 0) (hd : f.dirField = 0)
    (ha : f.addrField = 0#18) (ho : f.outcomeField = 0) (hr : f.recoveredField = 0) :
    f.word1 = BitVec.ofNat 16 (4096 * f.kind + 64 * f.regionField) :=
  FaultDetail.word1_eq (by simp [hp, hd, ha, ho, hr])

section
variable (r : Fin 64) (tag w : Word) (n m : Nat) (yes again : Bool) (p : Port) (d : Dir) (a : Addr) (c : WaitCause)
  (g : BitVec 10)

theorem word1_stale : (FaultDetail.stale r tag n).word1 = BitVec.ofNat 16 (0x1000 + 64 * r.val) :=
  FaultDetail.word1_of_noAccess rfl rfl rfl rfl rfl

theorem word1_diag :
    (FaultDetail.diag r tag yes n a w again).word1 =
      BitVec.ofNat 16
        (0x2000 + 64 * r.val + 4 * (a.toNat / 65536) + (if yes then 2 else 0) + (if again then 1 else 0)) :=
  FaultDetail.word1_eq (by cases yes <;> cases again <;> rfl)

theorem word1_protect :
    (FaultDetail.protect p a w).word1 =
      BitVec.ofNat 16 (0x3000 + 32 * portBit p + 16 + 4 * (a.toNat / 65536)) :=
  FaultDetail.word1_eq (by cases p <;> rfl)

theorem word1_wait :
    (FaultDetail.wait p a d c).word1 =
      BitVec.ofNat 16 (0x4000 + 32 * portBit p + 16 * dirBit d + 4 * (a.toNat / 65536)) :=
  FaultDetail.word1_eq (by cases p <;> cases d <;> rfl)

theorem word1_stage : (FaultDetail.stage r tag n).word1 = BitVec.ofNat 16 (0x5000 + 64 * r.val) :=
  FaultDetail.word1_of_noAccess rfl rfl rfl rfl rfl

theorem word1_torn : (FaultDetail.torn r tag g).word1 = BitVec.ofNat 16 (0x6000 + 64 * r.val) :=
  FaultDetail.word1_of_noAccess rfl rfl rfl rfl rfl

theorem word1_load : (FaultDetail.load n m).word1 = 0x7000#16 :=
  FaultDetail.word1_of_noAccess rfl rfl rfl rfl rfl

end

/-- The words of a record that its fault decides. -/
theorem FaultRecord.words_of_detail {f : FaultRecord} {w1 : Word} (h : f.detail.word1 = w1) :
    [f.word 1, f.word 4, f.word 5, f.word 6, f.word 7] =
      [w1, f.detail.tagField, f.detail.word5, f.detail.addrField.extractLsb' 0 16, f.detail.word7] := by
  rw [← h]
  rfl

/-! ## How an item moves on and ends (R101, R123, R133, R147) -/

/-- The item ends: outside PFAIL the Record Writer takes the next one, in PFAIL none. -/
theorem State.endItem_next (s : State) :
    s.endItem =
      { s with
        log :=
          { s.log with
            queue := if s.part = .pfail then s.log.queue else s.log.queue.tail
            inHand :=
              if s.part = .pfail then none else s.log.queue.head?.map fun i => i.begin s.log.producer } } := by
  by_cases hp : s.part = .pfail
  · simp [State.endItem, State.takeItem, hp]
  · simp [State.endItem_eq hp, hp]

section
variable {s : State} {c : Cycle} {data : Word}

/-- The completion of the Record Writer's access moves the item in hand on. -/
theorem exec_completion_of_writer (hr : s.running = true) (hd : s.pins.pfailDue = false) (hc : s.cycle = some c)
    (hq : c.req = .writer) :
    exec .memoryCycleCompletion s =
      .next (({ s with mem := s.memCarried, cycle := none } : State).writerAdvance c.data) := by
  rw [exec_memoryCycleCompletion_of_cycle hr hd hc, State.completeCycle, hq]

/-- A row that names the cycle carried does what MEMORY_CYCLE_COMPLETION does (log 8). -/
theorem State.completeIf_eq_completion {atHand : Bool} (hr : s.running = true) (hd : s.pins.pfailDue = false)
    (hc : s.cycle = some c) (h : atHand = true) : .next (s.completeIf atHand) = exec .memoryCycleCompletion s := by
  rw [State.completeIf_of_cycle hr hd hc h, exec_memoryCycleCompletion_of_cycle hr hd hc]

theorem State.writerAdvance_of_word {f : FaultRecord} {index k : Nat} (h : s.log.inHand = some (.record f index k))
    (hk : k < 7) :
    s.writerAdvance data = { s with log := { s.log with inHand := some (.record f index (k + 1)) } } := by
  have hmore : k + 1 < 8 := by omega
  simp [State.writerAdvance, h, hmore]

theorem State.writerAdvance_of_lastWord {f : FaultRecord} {index : Nat} (h : s.log.inHand = some (.record f index 7)) :
    s.writerAdvance data = ({ s with log := { s.log with producer := s.log.producer + 1 } } : State).endItem := by
  simp [State.writerAdvance, h]

theorem State.writerAdvance_of_torn {b : Addr} {g : BitVec 10} (h : s.log.inHand = some (.torn b g)) :
    s.writerAdvance data = s.endItem := by
  simp [State.writerAdvance, h]

section
variable {r : Fin 64} {n p k : Word}

theorem State.writerAdvance_of_periodRead (h : s.log.inHand = some (.writeBack r n 0 p k)) :
    s.writerAdvance data = { s with log := { s.log with inHand := some (.writeBack r n 1 data k) } } := by
  simp [State.writerAdvance, h]

theorem State.writerAdvance_of_checkRead (h : s.log.inHand = some (.writeBack r n 1 p k)) :
    s.writerAdvance data = { s with log := { s.log with inHand := some (.writeBack r n 2 p data) } } := by
  simp [State.writerAdvance, h]

theorem State.writerAdvance_of_periodWrite (h : s.log.inHand = some (.writeBack r n 2 p k)) :
    s.writerAdvance data = { s with log := { s.log with inHand := some (.writeBack r n 3 p k) } } := by
  simp [State.writerAdvance, h]

theorem State.writerAdvance_of_checkWrite (h : s.log.inHand = some (.writeBack r n 3 p k)) :
    s.writerAdvance data = s.endItem := by
  simp [State.writerAdvance, h]

end

end

/-- Settles O48: the accesses are the model's, word by word, and each completion is `writerAdvance` on the item in hand. -/
theorem recordWriterWritesItsItemsInOrder : Obligations.RecordWriterWritesItsItemsInOrder := by
  refine ⟨fun f index k => rfl, fun r n p k => ⟨rfl, rfl, rfl, rfl, rfl, rfl⟩, fun b g => rfl, ?_, ?_⟩
  · intro seq time r tag w n m yes again p d a c g word rest low high port dir cause
    have words {f : FaultDetail} {w1 : Word} (h : f.word1 = w1) :
        rest f = [w1, f.tagField, f.word5, f.addrField.extractLsb' 0 16, f.word7] := FaultRecord.words_of_detail h
    have hload : FaultDetail.word5 (.load n m) = BitVec.ofNat 16 (256 * n + m) := by rw [Nat.mul_comm]; rfl
    have hport : 32 * portBit p = port := by cases p <;> rfl
    have hdir : 16 * dirBit d = dir := by cases d <;> rfl
    have hcause : c.code = cause := by cases c <;> rfl
    refine ⟨fun f => ⟨rfl, rfl, rfl⟩, words (word1_stale r tag n), words (word1_diag r tag w n yes again a), ?_, ?_,
      words (word1_stage r tag n), words (word1_torn r tag g), ?_⟩
    · rw [words (word1_protect w p a), ← hport]
      rfl
    · rw [words (word1_wait p d a c), ← hport, ← hdir, ← hcause]
      rfl
    · rw [words (word1_load n m), hload]
      rfl
  · intro s cy hr hd hc hq begun moved stored after
    have hbegun (producer : BitVec 6) : (fun i => begun i producer) = fun i => Item.begin i producer :=
      funext fun i => by cases i <;> rfl
    have hafter (producer : BitVec 6) :
        ({ s with mem := stored, cycle := none, log := { s.log with producer := producer } } : State).endItem
          = after producer := by
      rw [State.endItem_next]
      simp only [after, hbegun]
    have hexec := exec_completion_of_writer hr hd hc hq
    refine ⟨fun hread r n p k => ?_, fun hwrite => ?_⟩
    · have done {u : State} (h : ({ s with cycle := none } : State).writerAdvance cy.data = u) :
          exec .memoryCycleCompletion s = .next u := by
        rw [hexec, State.memCarried_of_read hc hread, ← h]
      exact ⟨fun hh => done (State.writerAdvance_of_periodRead hh), fun hh => done (State.writerAdvance_of_checkRead hh)⟩
    · have done {u : State} (h : ({ s with mem := stored, cycle := none } : State).writerAdvance cy.data = u) :
          exec .memoryCycleCompletion s = .next u := by
        rw [hexec, State.memCarried_of_write hc hwrite, ← h]
      have hrecord : s.recordEndCarried = true → exec .faultRecordEnd s = exec .memoryCycleCompletion s :=
        State.completeIf_eq_completion hr hd hc
      have hback : s.writeBackEndCarried = true → exec .writeBackEnd s = exec .memoryCycleCompletion s :=
        State.completeIf_eq_completion hr hd hc
      refine ⟨fun f index k hh hk => done (State.writerAdvance_of_word hh hk), fun f index hh => ?_,
        fun r n p k hh => done (State.writerAdvance_of_periodWrite hh), fun r n p k hh => ?_, fun b g hh => ?_⟩
      · rw [hrecord (by simp [State.recordEndCarried, State.carries, hc, hq, hh, InHand.atRecordEnd]), ← hafter]
        exact done (State.writerAdvance_of_lastWord hh)
      · rw [hback (by simp [State.writeBackEndCarried, State.carries, hc, hq, hh, InHand.atWriteBackEnd]), ← hafter]
        exact done (State.writerAdvance_of_checkWrite hh)
      · rw [← hafter]
        exact done (State.writerAdvance_of_torn hh)

end Sys2Proof.Machine
end

section
/-! What every command leaves of the queue and the Time Count (O2). -/

namespace Sys2Proof.Machine

/-- The queue and the Time Count are as they were. -/
def State.KeepsClock (s t : State) : Prop := t.pending = s.pending ∧ t.time = s.time

theorem State.KeepsClock.refl (s : State) : s.KeepsClock s := ⟨rfl, rfl⟩

theorem State.KeepsClock.trans {s t u : State} (h : s.KeepsClock t) (h' : t.KeepsClock u) : s.KeepsClock u :=
  ⟨h'.1.trans h.1, h'.2.trans h.2⟩

/-- An operation that is made on a condition. -/
theorem State.KeepsClock.ite {s t : State} {c : Prop} [Decidable c] (h : s.KeepsClock t) :
    s.KeepsClock (if c then t else s) := by
  split
  · exact h
  · exact .refl s

/-! ## The moves of the part's blocks -/

theorem State.TakesAccess.keepsClock {s t : State} (h : s.TakesAccess t) : s.KeepsClock t := by
  obtain ⟨_, _, _, _, _, _, _, _, _, _, rfl⟩ := h
  exact ⟨rfl, rfl⟩

theorem State.LoaderMoves.keepsClock {s t : State} (h : s.LoaderMoves t) : s.KeepsClock t := by
  obtain ⟨_, _, _, _, _, h⟩ := h
  exact (State.TakesAccess.keepsClock h :)

theorem State.CompletionMoves.keepsClock {s t : State} (h : s.CompletionMoves t) : s.KeepsClock t := by
  obtain ⟨_, _, h⟩ := h
  exact (State.LoaderMoves.keepsClock h :)

theorem State.offer_keepsClock (s : State) (p : Port) (d : Dir) (a : Addr) (v : Word) :
    s.KeepsClock (s.offer p d a v) := by
  obtain ⟨_, h⟩ := s.offer_only p d a v
  exact (State.TakesAccess.keepsClock h :)

theorem State.takeFall_keepsClock (s : State) : s.KeepsClock s.takeFall := by
  unfold State.takeFall
  split
  · exact .refl s
  · obtain ⟨_, _, _, _, _, _, _, _, _, _, h⟩ := s.enterPfail_only
    rw [h]
    exact ⟨rfl, rfl⟩

theorem State.takeDueFall_keepsClock (s : State) : s.KeepsClock s.takeDueFall := .ite s.takeFall_keepsClock

theorem State.completeIf_keepsClock (s : State) (atHand : Bool) : s.KeepsClock (s.completeIf atHand) := by
  refine .ite (s.takeDueFall_keepsClock.trans ?_)
  unfold State.complete
  dsimp only
  split
  · rename_i c _
    exact (State.CompletionMoves.keepsClock (s.takeDueFall.completeCycle_only c) :)
  · exact .refl _

/-! ## The lines -/

theorem State.endShortPulse_keepsClock (s : State) (low : Bool) : s.KeepsClock (s.endShortPulse low) := by
  unfold State.endShortPulse
  dsimp only
  split
  · exact State.takeFall_keepsClock _
  · exact ⟨rfl, rfl⟩

theorem State.pfailFalls_keepsClock (s : State) : s.KeepsClock s.pfailFalls := by
  unfold State.pfailFalls
  dsimp only
  split
  · exact State.takeFall_keepsClock _
  · exact ⟨rfl, rfl⟩

/-- A RESET_N low leaves the queue; the Time Count returns to its reset value where the reset takes effect. -/
theorem State.resetLow_pending (s : State) (n : Nat) : (s.resetLow n).pending = s.pending := by
  unfold State.resetLow
  dsimp only
  split
  · rfl
  · split
    · exact s.takeDueFall_keepsClock.1
    · split
      · exact s.takeDueFall_keepsClock.1
      · rfl

theorem State.takeDueReset_pending (s : State) : s.takeDueReset.pending = s.pending := by
  unfold State.takeDueReset
  split
  · exact s.resetLow_pending _
  · rfl

theorem State.takeRecorded_pending (s : State) (p : Port) (q : Option Recorded) :
    (s.takeRecorded p q).pending = s.pending := by
  cases q with
  | none => rfl
  | some q =>
    obtain ⟨_, h⟩ := s.arrive_only p q.dir q.addr q.value
    exact (State.TakesAccess.keepsClock h).1

theorem State.release_pending (s : State) (low : Bool) : (s.release low).pending = s.pending := by
  unfold State.release
  dsimp only
  split
  · split <;> simp only [State.takeRecorded_pending] <;> rfl
  · simp only [State.takeRecorded_pending]
    rfl

theorem State.loseSupply_pending (s : State) : s.loseSupply.pending = s.pending := by
  unfold State.loseSupply
  dsimp only
  split
  · split <;> rfl
  · rfl

/-! ## Every command -/

/-- A reset, its release and a loss of supply: the commands at which the Time Count may return to its reset value. -/
def resetsTime (c : Instr) : Prop :=
  (∃ n, c = .resetNFalling n) ∨ (∃ b, c = .resetNRelease b) ∨ c = .lossOfSupply

theorem exec_pending_of_resetsTime {c : Instr} (h : resetsTime c) (s : State) :
    ∃ t, exec c s = .next t ∧ t.pending = s.pending := by
  obtain ⟨n, rfl⟩ | ⟨low, rfl⟩ | rfl := h
  · exact ⟨_, rfl, s.resetLow_pending n⟩
  · refine ⟨_, rfl, ?_⟩
    split
    · exact (State.release_pending _ low).trans s.takeDueReset_pending
    · exact s.takeDueReset_pending
  · refine ⟨_, rfl, ?_⟩
    split
    · exact s.loseSupply_pending
    · rfl

theorem exec_keepsClock {c : Instr} (hc : ¬ resetsTime c) (s : State) : ∃ t, exec c s = .next t ∧ s.KeepsClock t := by
  cases c with
  | accessArrival p oe we a v =>
    refine ⟨_, rfl, ?_⟩
    split
    · exact s.offer_keepsClock _ _ _ _
    · split
      · exact s.offer_keepsClock _ _ _ _
      · exact .ite (State.TakesAccess.keepsClock (s.liftStrobes_takesAccess p))
  | alertMaskWrite v | acknowledge v | alertHoldoffWrite v | faultConsumerWrite v | timeLowRead p =>
    exact ⟨_, rfl, s.offer_keepsClock _ _ _ _⟩
  | statusBlockWriteRefused p w v =>
    refine ⟨_, rfl, ?_⟩
    split
    · exact .refl s
    · exact s.offer_keepsClock _ _ _ _
  | loadCommand | unloadCommand | startUpReadsQualify | memoryCycleCompletion | commitCompletion | scanEnd | faultRecordEnd
  | writeBackEnd | shadowReadEnd | loadSuccess | loadFailure | unloadEnd =>
    exact ⟨_, rfl, s.completeIf_keepsClock _⟩
  | shortResetPulseEnd low => exact ⟨_, rfl, .ite (s.endShortPulse_keepsClock low)⟩
  | pfailNFalling => exact ⟨_, rfl, .ite s.pfailFalls_keepsClock⟩
  | holdTimerExpiry r =>
    obtain ⟨_, _, _, h⟩ := s.expireHold_only r
    exact ⟨_, rfl, .ite (h ▸ ⟨rfl, rfl⟩)⟩
  | deadlineExpiry r =>
    obtain ⟨_, _, _, _, h⟩ := s.expireDeadline_only r
    exact ⟨_, rfl, .ite (h ▸ ⟨rfl, rfl⟩)⟩
  | waitLimitExpiry p =>
    refine ⟨_, rfl, .ite ?_⟩
    split
    · split
      · rename_i a _ _ c _
        obtain ⟨_, _, _, _, _, h⟩ := s.expireWait_only p a c
        exact h ▸ ⟨rfl, rfl⟩
      · exact .refl s
    · exact .refl s
  | holdoffExpiry => exact ⟨_, rfl, .ite ⟨rfl, rfl⟩⟩
  | arbiterGrant =>
    obtain ⟨_, _, _, _, h⟩ := s.grant_only
    exact ⟨_, rfl, .ite (h ▸ ⟨rfl, rfl⟩)⟩
  | commitStart =>
    obtain ⟨_, _, _, _, _, _, _, _, _, _, h⟩ := s.startSelected_only
    exact ⟨_, rfl, .ite (h ▸ ⟨rfl, rfl⟩)⟩
  | scanStart =>
    obtain ⟨_, _, h⟩ := s.beginScan_only
    exact ⟨_, rfl, .ite (h ▸ ⟨rfl, rfl⟩)⟩
  | drainEnd => exact ⟨_, rfl, .ite (State.LoaderMoves.keepsClock s.endDrain_moves)⟩
  | resetNFalling n => exact absurd (.inl ⟨n, rfl⟩) hc
  | resetNRelease low => exact absurd (.inr (.inl ⟨low, rfl⟩)) hc
  | lossOfSupply => exact absurd (.inr (.inr rfl)) hc

/-- Settles O2: by whether the command may set the Time Count back. -/
theorem everyCommandAnswersAndTakesNoTime : Obligations.EveryCommandAnswersAndTakesNoTime := by
  intro c s
  by_cases hc : resetsTime c
  · obtain ⟨t, ht, hp⟩ := exec_pending_of_resetsTime hc s
    refine ⟨t, ht, hp, fun hfall hrelease hloss => ?_⟩
    obtain ⟨n, rfl⟩ | ⟨low, rfl⟩ | rfl := hc
    · exact absurd rfl (hfall n)
    · exact absurd rfl (hrelease low)
    · exact absurd rfl hloss
  · obtain ⟨t, ht, hp, htime⟩ := exec_keepsClock hc s
    exact ⟨t, ht, hp, fun _ _ _ => htime⟩

end Sys2Proof.Machine
end

section
/-! The step on an empty queue (O3). -/

namespace Sys2Proof.Machine

/-! ## What is due (R88, R157, R180) -/

/-- The list of due events, kind by kind. -/
theorem State.mem_dueEvents (s : State) (c : Instr) :
    c ∈ s.dueEvents ↔
      c = .pfailNFalling ∧ s.running = true ∧ s.pins.pfailDue = true
      ∨ c = .resetNFalling s.pins.resetLowPeriods ∧ s.resetDue = true
      ∨ (∃ r, c = .holdTimerExpiry r ∧ s.holdDue r = true)
      ∨ (∃ r, c = .deadlineExpiry r ∧ s.deadlineDue r = true)
      ∨ (∃ p, c = .waitLimitExpiry p ∧ s.waitDue p = true)
      ∨ c = .holdoffExpiry ∧ s.holdoffDue = true := by
  have one (due : Prop) [Decidable due] (e : Instr) : c ∈ (if due then [e] else []) ↔ c = e ∧ due := by
    by_cases h : due <;> simp [h]
  have each {α : Type} (l : List α) (hl : ∀ x, x ∈ l) (due : α → Bool) (e : α → Instr) :
      c ∈ (l.filter due).map e ↔ ∃ x, c = e x ∧ due x = true := by
    simp only [List.mem_map, List.mem_filter, hl, true_and]
    exact exists_congr fun x => by rw [and_comm, eq_comm]
  have ports (p : Port) : p ∈ [Port.a, Port.b] := by cases p <;> simp
  simp only [State.dueEvents, List.mem_append, one, each _ List.mem_finRange, each _ ports, Bool.and_eq_true, or_assoc]

theorem State.resetDue_iff (s : State) :
    s.resetDue = true ↔ s.running = true ∧ s.pins.refclk = true ∧ 160 ≤ s.pins.resetLowPeriods := by
  simp [State.resetDue, and_assoc]

/-- Nothing is due in a reset or without the supply. -/
theorem State.dueEvents_of_not_running {s : State} (h : s.running = false) : s.dueEvents = [] := by
  refine List.eq_nil_iff_forall_not_mem.2 fun c hc => ?_
  simp [State.mem_dueEvents, State.resetDue_iff, State.holdDue_iff, State.deadlineDue_iff, State.waitDue_iff,
    State.holdoffDue_iff, h] at hc

/-! ## What the step takes -/

theorem State.tick_of_counting {s : State} (hr : s.running = true) (hclk : s.pins.refclk = true) :
    s.tick =
      { s with
        time := s.time + 1
        pins :=
          { s.pins with
            resetLowPeriods := if s.pins.resetN then s.pins.resetLowPeriods else s.pins.resetLowPeriods + 16 } } := by
  simp [State.tick, hr, hclk]

theorem State.tick_of_not_counting {s : State} (h : s.running = false ∨ s.pins.refclk = false) : s.tick = s := by
  rcases h with h | h <;> simp [State.tick, h]

section
variable {s : State} (hempty : s.pending = [])
include hempty

theorem step_of_nothing_due (h : s.dueEvents = []) : step s = .next s.tick := by
  simp only [step, hempty, State.idleEvent, h]

theorem step_of_one_due {c : Instr} (h : s.dueEvents = [c]) : step s = exec c s := by
  simp only [step, hempty, State.idleEvent, h]

/-- Of several due events one is taken, by a free value. -/
theorem step_of_several_due (h : 2 ≤ s.dueEvents.length) :
    ∃ c ∈ s.dueEvents, step s = exec c { s with freeIndex := s.freeIndex + 1 } := by
  match hd : s.dueEvents, h with
  | c :: d :: rest, _ =>
    have hlt : Config.expiryFirst s.freeIndex % (rest.length + 2) < (c :: d :: rest).length :=
      Nat.mod_lt _ (Nat.succ_pos _)
    refine ⟨(c :: d :: rest)[_]'hlt, List.getElem_mem hlt, ?_⟩
    simp only [step, hempty, State.idleEvent, hd, ← List.getD_eq_getElem _ c hlt]

end

/-- Settles O3: by how many events are due; the list's members are those of `mem_dueEvents`, each timer by its own rule. -/
theorem idleStepCountsOneMicrosecond : Obligations.IdleStepCountsOneMicrosecond := by
  intro s hempty
  refine ⟨fun hr hnone => ⟨fun hclk => ?_, fun hclk => ?_⟩, fun hr => ?_, fun c => step_of_one_due hempty,
    step_of_several_due hempty, fun c => ?_⟩
  · rw [step_of_nothing_due hempty hnone, State.tick_of_counting hr hclk]
  · rw [step_of_nothing_due hempty hnone, State.tick_of_not_counting (.inr hclk)]
  · rw [step_of_nothing_due hempty (State.dueEvents_of_not_running hr), State.tick_of_not_counting (.inl hr)]
  · rw [State.mem_dueEvents, State.resetDue_iff, State.holdoffDue_iff]
    simp only [State.holdDue_iff, State.deadlineDue_iff, State.waitDue_iff]
    constructor
    · rintro (⟨hc, hr, hfall⟩ | ⟨hc, hr, hclk, hlow⟩ | ⟨r, hc, hr, hclk, hlive, x, hx, ht⟩
        | ⟨r, hc, hr, hclk, hlive, x, hx, ht⟩ | ⟨p, hc, hr, hclk, a, cause, ha, ht, hph⟩ | ⟨hc, hr, hclk, ht⟩)
      · exact ⟨hr, .inl ⟨hc, hfall⟩⟩
      · exact ⟨hr, .inr ⟨hclk, .inl ⟨hc, hlow⟩⟩⟩
      · exact ⟨hr, .inr ⟨hclk, .inr (.inl ⟨hlive, r, x, hx, .inl ⟨hc, ht⟩⟩)⟩⟩
      · exact ⟨hr, .inr ⟨hclk, .inr (.inl ⟨hlive, r, x, hx, .inr ⟨hc, ht⟩⟩)⟩⟩
      · exact ⟨hr, .inr ⟨hclk, .inr (.inr (.inl ⟨p, a, cause, hc, ha, ht, hph⟩))⟩⟩
      · exact ⟨hr, .inr ⟨hclk, .inr (.inr (.inr ⟨hc, ht⟩))⟩⟩
    · rintro ⟨hr, ⟨hc, hfall⟩ | ⟨hclk, ⟨hc, hlow⟩ | ⟨hlive, r, x, hx, ⟨hc, ht⟩ | ⟨hc, ht⟩⟩
        | ⟨p, a, cause, hc, ha, ht, hph⟩ | ⟨hc, ht⟩⟩⟩
      · exact .inl ⟨hc, hr, hfall⟩
      · exact .inr (.inl ⟨hc, hr, hclk, hlow⟩)
      · exact .inr (.inr (.inl ⟨r, hc, hr, hclk, hlive, x, hx, ht⟩))
      · exact .inr (.inr (.inr (.inl ⟨r, hc, hr, hclk, hlive, x, hx, ht⟩)))
      · exact .inr (.inr (.inr (.inr (.inl ⟨p, hc, hr, hclk, a, cause, ha, ht, hph⟩))))
      · exact .inr (.inr (.inr (.inr (.inr ⟨hc, hr, hclk, ht⟩))))

end Sys2Proof.Machine
end

section
/-! The Diagnosis Engine: the test of a condition (O45), the start of a scan (O46), and the completion of a condition read
(O47). -/

namespace Sys2Proof.Machine

/-! ## The test of a condition (R105) -/

section
variable {c : Condition} {w : Word}

/-- A masked word that is the expected value meets a condition of sense EQUAL alone. -/
theorem Condition.met_of_match (h : w &&& c.mask = c.expected) : c.met w = decide (c.sense = .equal) := by
  cases hs : c.sense <;> simp [Condition.met, hs, h]

/-- A masked word that is not the expected value meets a condition of sense DIFFER alone. -/
theorem Condition.met_of_mismatch (h : w &&& c.mask ≠ c.expected) : c.met w = decide (c.sense = .differ) := by
  cases hs : c.sense <;> simp [Condition.met, hs, h]

/-- The expected value is not masked: with a bit outside the mask no masked word is equal to it. -/
theorem Condition.mismatch_of_expected_outside_mask (h : c.expected &&& ~~~c.mask ≠ 0#16) : w &&& c.mask ≠ c.expected := by
  intro heq
  refine h ?_
  simp [← heq, BitVec.and_assoc]

end

/-! ## The report of a scan (R117, Table 6-3) -/

section
variable {s : State} {c : Scan} {w : Word}

theorem State.diagFault_of_unmet (h : (s.condition c.position).met w = false) :
    s.diagFault c w = .diag c.region c.tag true c.position (s.condition c.position).addr w c.recovered := by
  simp [State.diagFault, h]

theorem State.diagFault_of_met (h : (s.condition c.position).met w = true) :
    s.diagFault c w = .diag c.region c.tag false 0 0#18 0#16 c.recovered := by
  simp [State.diagFault, h]

end

/-- Settles O45: by whether the masked word is the expected value. -/
theorem conditionComparesTheMaskedWord : Obligations.ConditionComparesTheMaskedWord := by
  intro c w
  refine ⟨fun hs => ?_, fun hs => ?_, fun hout => ?_, fun hmask hexp => ?_, fun s sc hcond hunmet => ?_⟩
  · simp [Condition.met, hs]
  · simp [Condition.met, hs]
  · exact Condition.met_of_mismatch (Condition.mismatch_of_expected_outside_mask hout)
  · exact Condition.met_of_match (by simp [hmask, hexp])
  · subst hcond
    exact State.diagFault_of_unmet hunmet

/-! ## Taking up a condition (R111) -/

/-- A word lies in a COMMITTING region when the region that covers it has that header state. -/
theorem State.inCommitting_iff (s : State) (a : Addr) :
    s.inCommitting a = true ↔ ((s.regionAt a).bind s.region?).map Region.header = some .committing := by
  unfold State.inCommitting
  cases s.regionAt a with
  | none => simp
  | some r => cases hx : s.region? r with
    | none => simp [State.committing, hx]
    | some x => simp [State.committing_iff hx, hx]

theorem State.takeUp_eq (s : State) (c : Scan) :
    s.takeUp c =
      { s with
        scan := some
          { c with
            step :=
              if ((s.regionAt (s.condition c.position).addr).bind s.region?).map Region.header = some .committing
              then .held
              else .requested } } := by
  simp only [State.takeUp, State.inCommitting_iff]

/-! ## The start of a scan (R109, R116) -/

theorem State.scanStarts_iff (s : State) :
    s.scanStarts = true ↔ s.running = true ∧ (s.part = .active ∨ s.part = .draining) ∧ s.scan = none := by
  simp [State.scanStarts, PartState.regionsLive_iff, and_assoc]

theorem exec_scanStart_of_not_starting {s : State} (h : s.scanStarts = false) : exec .scanStart s = .next s := by
  simp [exec, execScanStart, h]

theorem exec_scanStart_of_starting {s : State} (h : s.scanStarts = true) : exec .scanStart s = .next s.beginScan := by
  simp [exec, execScanStart, h]

theorem State.beginScan_of_empty {s : State} (h : s.diagQueue = []) : s.beginScan = s := by
  simp [State.beginScan, h]

theorem State.beginScan_of_head {s : State} {r : Fin 64} {rest : List (Fin 64)} {x : Region} (hq : s.diagQueue = r :: rest)
    (hx : s.region? r = some x) :
    s.beginScan = ({ s with diagQueue := rest } : State).takeUp
      { region := r, tag := x.entry.tag, position := x.entry.condFirst, step := .requested, recovered := false } := by
  simp [State.beginScan, hq, hx]

/-- Settles O46: a scan that may start takes up the first condition of the queue's head; with an empty queue there is no head,
and in each other case none may start. -/
theorem scanStartTakesTheHeadOfTheQueue : Obligations.ScanStartTakesTheHeadOfTheQueue := by
  refine ⟨fun s hnot => ?_, fun s r rest x hr hpart hidle hq hx => ?_⟩
  · cases hstart : s.scanStarts with
    | false => exact exec_scanStart_of_not_starting hstart
    | true =>
      obtain ⟨hr, hpart, hidle⟩ := s.scanStarts_iff.1 hstart
      have hempty : s.diagQueue = [] := by
        rcases hnot with hstopped | hbusy | hempty | ⟨hactive, hdraining⟩
        · simp [hr] at hstopped
        · simp [hidle] at hbusy
        · exact hempty
        · exact absurd hpart (not_or.2 ⟨hactive, hdraining⟩)
      rw [exec_scanStart_of_starting hstart, State.beginScan_of_empty hempty]
  · rw [exec_scanStart_of_starting (s.scanStarts_iff.2 ⟨hr, hpart, hidle⟩), State.beginScan_of_head hq hx, State.takeUp_eq]
    rfl

/-! ## The completion of a condition read (R112) -/

section
variable {s : State} {c : Scan} {x : Region} {w : Word}

theorem State.lastCondition_of_region (hx : s.region? c.region = some x) :
    s.lastCondition c.region = x.entry.condFirst + x.entry.condCount - 1 := by
  simp [State.lastCondition, hx]

theorem State.scanEndsWith_of_unmet (h : (s.condition c.position).met w = false) : s.scanEndsWith c w = true := by
  simp [State.scanEndsWith, h]

theorem State.scanEndsWith_of_met (h : (s.condition c.position).met w = true) :
    s.scanEndsWith c w = decide (s.lastCondition c.region ≤ c.position) := by
  simp [State.scanEndsWith, h]

theorem State.testCondition_of_end (h : s.scanEndsWith c w = true) :
    s.testCondition c w = ({ s with scan := none } : State).raise (s.diagFault c w) := if_pos h

theorem State.testCondition_of_next (h : s.scanEndsWith c w = false) :
    s.testCondition c w = s.takeUp { c with position := c.position + 1 } := if_neg (by simp [h])

end

section
variable {s : State} {cy : Cycle} {c : Scan} (hr : s.running = true) (hd : s.pins.pfailDue = false) (hp : s.part ≠ .pfail)
  (hc : s.cycle = some cy) (hq : cy.req = .diag) (hread : cy.dir = .read) (hscan : s.scan = some c)
include hr hd hp hc hq hread hscan

/-- Outside PFAIL a condition read that completes frees the memory port, and its word is tested. -/
theorem exec_completion_of_conditionRead :
    exec .memoryCycleCompletion s = .next (({ s with cycle := none } : State).testCondition c cy.data) := by
  rw [exec_memoryCycleCompletion_of_cycle hr hd hc]
  simp [State.completeCycle, hq, State.memCarried_of_read hc hread, State.diagDone, hscan, hp]

/-- SCAN_END: the read after which the scan ends, with its DIAG fault. -/
theorem exec_scanEnd_of_end (hend : s.scanEndsWith c cy.data = true) :
    exec .scanEnd s = .next (({ s with cycle := none, scan := none } : State).raise (s.diagFault c cy.data)) := by
  have hcarried : s.scanEndCarried = true := by simp [State.scanEndCarried, hc, hscan, hq, hp, hend]
  calc exec .scanEnd s
      = exec .memoryCycleCompletion s := State.completeIf_eq_completion hr hd hc hcarried
    _ = .next (({ s with cycle := none } : State).testCondition c cy.data) :=
        exec_completion_of_conditionRead hr hd hp hc hq hread hscan
    _ = _ := congrArg _ (State.testCondition_of_end (s := { s with cycle := none }) hend)

end

/-- Settles O47: by whether the condition is met, and whether it is the last of the list. -/
theorem scanEndsAtTheFirstUnmetCondition : Obligations.ScanEndsAtTheFirstUnmetCondition := by
  intro s cy c x hr hd hp hc hq hread hscan hx cond last idle
  have hend (h : s.scanEndsWith c cy.data = true) : exec .scanEnd s = .next (idle.raise (s.diagFault c cy.data)) :=
    exec_scanEnd_of_end hr hd hp hc hq hread hscan h
  have hlast : s.lastCondition c.region = last := State.lastCondition_of_region hx
  refine ⟨fun hunmet => ?_, fun hmet hlist => ?_, fun hmet hlist => ?_⟩
  · rw [hend (State.scanEndsWith_of_unmet hunmet), State.diagFault_of_unmet hunmet]
  · have hends : s.scanEndsWith c cy.data = true := by simp [State.scanEndsWith_of_met hmet, hlast, hlist]
    rw [hend hends, State.diagFault_of_met hmet]
  · have hgoes : s.scanEndsWith c cy.data = false := by simp [State.scanEndsWith_of_met hmet, hlast, hlist]
    rw [exec_completion_of_conditionRead hr hd hp hc hq hread hscan,
      State.testCondition_of_next (s := { s with cycle := none }) hgoes, State.takeUp_eq]
    rfl

end Sys2Proof.Machine
end

section
/-! The completion of a host's memory cycle, and the completions that do no more than store in PFAIL (O39). -/

namespace Sys2Proof.Machine

/-- A cycle that is not a port A write of 0001H or 0002H to the command word gives no command (R141). -/
theorem commandOf_eq_none {p : Port} {d : Dir} {a : Addr} {v : Word}
    (h : ¬ (p = .a ∧ d = .write ∧ a = commandAddr ∧ (v = 1#16 ∨ v = 2#16))) : commandOf p d a v = none := by
  unfold commandOf
  split
  · obtain ⟨hp, hd, ha⟩ := ‹p = .a ∧ d = .write ∧ a = commandAddr›
    have hv : v ≠ 1#16 ∧ v ≠ 2#16 := not_or.1 fun hv => h ⟨hp, hd, ha, hv⟩
    rw [if_neg hv.1, if_neg hv.2]
  · rfl

section
variable {s : State} {c : Cycle}

/-- Memory after the carried cycle, by its direction (R176). -/
theorem State.memCarried_of_cycle (hc : s.cycle = some c) :
    s.memCarried = match c.dir with
      | .read => s.mem
      | .write => memWrite s.mem c.addr c.data := by
  cases hd : c.dir with
  | read => exact State.memCarried_of_read hc hd
  | write => exact State.memCarried_of_write hc hd

/-- In PFAIL the host was answered already (R158). -/
theorem State.hostDone_of_pfail {p : Port} (hp : s.part = .pfail) (hcmd : commandOf p c.dir c.addr c.data = none) :
    s.hostDone p c = s := by
  simp [State.hostDone, hcmd, hp]

/-- Outside PFAIL the host's access ends, a read with the word taken at its grant (R167). -/
theorem State.hostDone_of_answered {p : Port} (hp : s.part ≠ .pfail) (hcmd : commandOf p c.dir c.addr c.data = none) :
    s.hostDone p c =
      s.setPort p
        { s.port p with
          access := none
          driven := match c.dir with
            | .read => if (s.port p).strobes then some c.data else none
            | .write => none } := by
  simp only [State.hostDone, hcmd, if_neg hp, State.endAccess, PortRec.drives]
  cases c.dir with
  | read => rfl
  | write => simp only [ite_self]

/-- In PFAIL the completion of a cycle of the Table Loader or the Diagnosis Engine drops the word (R116, R161). -/
theorem State.completeCycle_of_dropped (hp : s.part = .pfail) (hq : c.req = .loader ∨ c.req = .diag) :
    s.completeCycle c = { s with mem := s.memCarried, cycle := none } := by
  rcases hq with hq | hq
  · simp [State.completeCycle, hq, State.loaderDone, hp]
  · simp only [State.completeCycle, hq, State.diagDone]
    split
    · exact if_pos hp
    · rfl

/-- A PFAIL_N level still to be taken is taken before the completion (R157, log 13). -/
theorem exec_completion_of_due_fall (hr : s.running = true) (hc : s.cycle = some c) (hd : s.pins.pfailDue = true)
    (hp : s.part ≠ .pfail) :
    exec .memoryCycleCompletion s = exec .memoryCycleCompletion s.enterPfail := by
  have hcycle : s.enterPfail.cycle = some c := by
    obtain ⟨_, _, _, _, _, _, _, _, _, _, h⟩ := s.enterPfail_only
    rw [h, ← hc]
  have hcomplete : s.complete = s.enterPfail.complete := by
    have hdone : s.enterPfail.takeDueFall = s.enterPfail := State.takeDueFall_of_not_due (by rw [s.enterPfail_pins])
    simp only [State.complete, State.takeDueFall_of_due hd hp, hdone]
  have hrunning : s.enterPfail.running = true := by simpa [State.running, s.enterPfail_pins] using hr
  simp [exec, execMemoryCycleCompletion, State.completeIf, hr, hrunning, hc, hcycle, hcomplete]

end

/-- Settles O39: the write is stored, and then by the part state and by who asked for the cycle. -/
theorem hostCycleCompletionAnswersTheHost : Obligations.HostCycleCompletionAnswersTheHost := by
  intro s c hr hc stored
  have hstored : ({ s with mem := s.memCarried, cycle := none } : State) = stored :=
    congrArg (fun m => ({ s with mem := m, cycle := none } : State)) (State.memCarried_of_cycle hc)
  refine ⟨fun p hd hq hnone => ?_, fun hd hp hq => ?_, exec_completion_of_due_fall hr hc⟩
  · have hcmd : commandOf p c.dir c.addr c.data = none := commandOf_eq_none hnone
    have hexec : exec .memoryCycleCompletion s = .next (stored.hostDone p c) := by
      rw [exec_memoryCycleCompletion_of_cycle hr hd hc, State.completeCycle, hq, ← hstored]
    have done {t : State} (h : stored.hostDone p c = t) : exec .memoryCycleCompletion s = .next t := h ▸ hexec
    exact ⟨fun hp => done (State.hostDone_of_pfail (s := stored) hp hcmd),
      fun hp => done (State.hostDone_of_answered (s := stored) hp hcmd)⟩
  · rw [exec_memoryCycleCompletion_of_cycle hr hd hc, State.completeCycle_of_dropped hp hq, hstored]

end Sys2Proof.Machine
end

section
/-! PFAIL_N falling (O57). -/

namespace Sys2Proof.Machine

/-! ## What each block does at the fall (R158, R159, R133) -/

/-- The record of a port after the fall: the access in flight is ended (R158). -/
def PortRec.endedByPfail (q : PortRec) : PortRec :=
  match q.access with
  | some a => { q with access := none, driven := q.drives (endedValue a.dir) }
  | none => q

theorem State.endByPfail_eq (s : State) (p : Port) : s.endByPfail p = s.setPort p (s.port p).endedByPfail := by
  unfold State.endByPfail PortRec.endedByPfail
  cases (s.port p).access with
  | some a => rfl
  | none => cases p <;> rfl

/-- An access ended by the fall, by its direction: a read drives FFFFH while its strobes are held, a write nothing. -/
theorem PortRec.endedByPfail_eq (q : PortRec) :
    q.endedByPfail = match q.access with
      | some a => { q with access := none, driven := match a.dir with
          | .read => if q.strobes then some 0xFFFF#16 else none
          | .write => none }
      | none => q := by
  unfold PortRec.endedByPfail
  cases q.access with
  | none => rfl
  | some a => cases hd : a.dir <;> simp [hd, endedValue, PortRec.drives]

/-- The slots after the fall, each by its own state. -/
theorem State.freeStaged_slots (s : State) :
    s.freeStaged.slots = s.slots.map fun x => if x.state = .committing then x else Slot.empty := by
  ext k hk : 1
  simp [State.freeStaged]

/-- The dropped causes join the pending ones item by item: each dropped record's own cause with OVERFLOW. -/
theorem foldl_eq_or_droppedCauses {join : BitVec 8 → Item → BitVec 8}
    (hrecord : ∀ v f, join v (.record f) = v ||| f.detail.cause ||| overflowCause)
    (hback : ∀ v r n, join v (.writeBack r n) = v) (htorn : ∀ v b g, join v (.torn b g) = v) (items : List Item)
    (v : BitVec 8) : items.foldl join v = v ||| droppedCauses items := by
  induction items generalizing v with
  | nil => simp [droppedCauses]
  | cons i rest ih =>
    rw [List.foldl_cons, ih]
    cases i with
    | record f => simp only [hrecord, droppedCauses, BitVec.or_assoc]
    | writeBack r n => rw [hback, droppedCauses]
    | torn b g => rw [htorn, droppedCauses]

/-! ## The part's fall (R157, Table 9-1) -/

/-- All that a fall changes, block by block. -/
theorem State.enterPfail_eq (s : State) :
    s.enterPfail =
      { s with
        part := .pfail
        pins := { s.pins with pfailDue := false }
        portA := s.portA.endedByPfail
        portB := s.portB.endedByPfail
        slots := s.freeStaged.slots
        commitQueue := []
        waiting := []
        log := { s.log with queue := [] }
        alert :=
          { s.alert with
            pending := s.alert.pending ||| droppedCauses s.log.queue
            holdoff := none
            asserted := false }
        ldr := { s.ldr with work := .idle }
        live := s.live.map fun l => l.mapRegions fun x => { x with holdTimer := none, deadline := none } } := by
  unfold State.enterPfail
  rw [State.endByPfail_eq, State.endByPfail_eq]
  rfl

theorem exec_pfailNFalling_of_powered {s : State} (h : s.pins.powered = true) :
    exec .pfailNFalling s = .next s.pfailFalls := by
  simp [exec, execPfailNFalling, h]

/-- In PFAIL and while RESET_N is low only the line's level changes. -/
theorem State.pfailFalls_of_ignored {s : State} (h : s.part = .pfail ∨ s.pins.resetN = false) :
    s.pfailFalls = { s with pins := { s.pins with pfailN := false } } := by
  rcases h with h | h <;> simp [State.pfailFalls, State.takeFall, h]

theorem State.pfailFalls_of_taken {s : State} (hp : s.part ≠ .pfail) (hr : s.pins.resetN = true) :
    s.pfailFalls = ({ s with pins := { s.pins with pfailN := false } } : State).enterPfail := by
  simp [State.pfailFalls, State.takeFall, hp, hr]

/-- Settles O57: a fall that is acted on is `enterPfail`, whose blocks are compared one by one. -/
theorem pfailFallEntersPfail : Obligations.PfailFallEntersPfail := by
  intro s hpowered ended
  have hended (q : PortRec) : q.endedByPfail = ended q := q.endedByPfail_eq
  rw [exec_pfailNFalling_of_powered hpowered]
  refine ⟨fun hignored => ?_, fun hp hr => ?_⟩
  · rw [State.pfailFalls_of_ignored hignored]
  · rw [State.pfailFalls_of_taken hp hr, State.enterPfail_eq, State.freeStaged_slots, hended, hended,
      foldl_eq_or_droppedCauses (fun _ _ => rfl) (fun _ _ _ => rfl) (fun _ _ _ => rfl)]

end Sys2Proof.Machine
end

section
/-! Fault detection (O22): an item that joins the queue, the number and the record of a fault, and the line after it. -/

namespace Sys2Proof.Machine

/-! ## The record queue length (R120) -/

@[simp] theorem Item.begin_isRecord (i : Item) (producer : BitVec 6) : (i.begin producer).isRecord = i.isRecord := by
  cases i <;> rfl

/-- Items wait or are in hand: the item that the Record Writer takes in hand is counted as it was in the queue. -/
theorem State.takeItem_counts (s : State) :
    ∃ queue hand, s.takeItem = { s with log := { s.log with queue := queue, inHand := hand } }
      ∧ s.takeItem.log.recordCount = s.log.recordCount := by
  unfold State.takeItem
  split
  · exact ⟨_, _, rfl, rfl⟩
  · exact ⟨_, _, rfl, rfl⟩
  · exact ⟨_, _, rfl, rfl⟩
  · rename_i i rest hhand hqueue _
    exact ⟨_, _, rfl, by simp [FaultLog.recordCount, hhand, hqueue, List.countP_cons]⟩

/-- An item that joins the queue changes the queue and the item in hand; a fault record is one record more. -/
theorem State.enqueue_counts (s : State) (i : Item) :
    ∃ queue hand, s.enqueue i = { s with log := { s.log with queue := queue, inHand := hand } }
      ∧ (s.enqueue i).log.recordCount = s.log.recordCount + if i.isRecord then 1 else 0 := by
  obtain ⟨queue, hand, h, hcount⟩ :=
    State.takeItem_counts { s with log := { s.log with queue := s.log.queue ++ [i] } }
  refine ⟨queue, hand, h, hcount.trans ?_⟩
  simp only [FaultLog.recordCount, List.countP_append, List.countP_singleton]
  omega

/-! ## The detection (R119, R121, R127, R128) -/

/-- The causes that become pending, and the line after them. -/
theorem State.setPending_eq (s : State) (causes : BitVec 8) :
    s.setPending causes =
      { s with
        alert :=
          { s.alert with
            pending := s.alert.pending ||| causes
            asserted := lineFor s.part (s.alert.pending ||| causes) s.alert.mask s.alert.holdoff.isSome } } := by
  rw [State.setPending, State.evalAlert_eq]

/-- A fault that is lost takes a number, and OVERFLOW becomes pending with its cause (R121). -/
theorem State.raise_of_lost {s : State} (h : s.logs = false) (d : FaultDetail) :
    s.raise d =
      ({ s with log := { s.log with nextSeq := s.log.nextSeq + 1 } } : State).setPending (d.cause ||| overflowCause) := by
  simp [State.raise, h]

/-- A fault that is logged takes a number and is one record more, in the queue or in hand. -/
theorem State.raise_of_logged {s : State} (h : s.logs = true) (d : FaultDetail) :
    ∃ queue hand,
      s.raise d =
          ({ s with log := { s.log with nextSeq := s.log.nextSeq + 1, queue := queue, inHand := hand } } : State).setPending
            d.cause
        ∧ (s.raise d).log.recordCount = s.log.recordCount + 1 := by
  obtain ⟨queue, hand, henqueue, hcount⟩ :=
    State.enqueue_counts { s with log := { s.log with nextSeq := s.log.nextSeq + 1 } }
      (.record { seq := s.log.nextSeq, time := s.time, detail := d })
  refine ⟨queue, hand, ?_, ?_⟩
  · simp only [State.raise, h, if_true, henqueue]
  · simp only [State.raise, h, if_true, State.setPending_log, hcount]
    rfl

/-- Settles O22: `raise` by whether the fault is logged; the queue and the hand are those of the log after it. -/
theorem faultDetectionNumbersLogsAndAlerts : Obligations.FaultDetectionNumbersLogsAndAlerts := by
  intro s d logged f cause causes
  have hcause : d.cause = cause := by cases d <;> rfl
  have hlogs : s.logs = true ↔ logged := by simp [State.logs, logged, and_assoc]
  refine ⟨fun h => ?_, fun h => ?_⟩
  · obtain ⟨queue, hand, hraise, hcount⟩ := State.raise_of_logged (hlogs.2 h) d
    have hlog : (s.raise d).log = { s.log with nextSeq := s.log.nextSeq + 1, queue := queue, inHand := hand } := by
      rw [hraise]; rfl
    refine ⟨queue, hand, ?_, hcount, fun hbusy => ?_, fun hidle hempty => ?_⟩
    · rw [hraise, State.setPending_eq, hcause]
    · have hbehind := hlog.symm.trans (State.raise_log_of_busy (hlogs.2 h) hbusy d)
      exact ⟨congrArg FaultLog.queue hbehind, congrArg FaultLog.inHand hbehind⟩
    · have hinHand := hlog.symm.trans (State.raise_log_of_idle (hlogs.2 h) hidle hempty d)
      exact ⟨(congrArg FaultLog.queue hinHand).trans hempty, congrArg FaultLog.inHand hinHand⟩
  · have hlost : s.logs = false := Bool.eq_false_iff.2 (mt hlogs.1 h)
    rw [State.raise_of_lost hlost, State.setPending_eq, hcause, ← BitVec.or_assoc]
    rfl

end Sys2Proof.Machine
end

section
/-! The Fault Log's bounds and the alert line (O6, O8): every command as a sequence of operations that keep R127's line and the
bounds of R120 to R122. -/

namespace Sys2Proof.Machine

/-! ## The fault unit -/

/-- What the line and the bounds depend on: the Fault Log, the alert unit, and whether the part is in PFAIL. -/
def State.faultUnit (s : State) : FaultLog × AlertUnit × Bool := (s.log, s.alert, decide (s.part = .pfail))

theorem State.faultUnit_eq {s t : State} (hl : t.log = s.log) (ha : t.alert = s.alert)
    (hp : t.part = .pfail ↔ s.part = .pfail) : t.faultUnit = s.faultUnit := by
  simp only [State.faultUnit, hl, ha, hp]

/-- The line stays as R127 gives it, and the log within its bounds. -/
def State.KeepsFaultUnit (s t : State) : Prop := (s.alertExact → t.alertExact) ∧ (s.logBounded → t.logBounded)

theorem State.KeepsFaultUnit.refl (s : State) : s.KeepsFaultUnit s := ⟨id, id⟩

theorem State.KeepsFaultUnit.trans {s t u : State} (h : s.KeepsFaultUnit t) (h' : t.KeepsFaultUnit u) :
    s.KeepsFaultUnit u :=
  ⟨h'.1 ∘ h.1, h'.2 ∘ h.2⟩

theorem State.KeepsFaultUnit.of_unit {s t : State} (h : t.faultUnit = s.faultUnit) : s.KeepsFaultUnit t := by
  simp only [State.faultUnit, Prod.mk.injEq, decide_eq_decide] at h
  obtain ⟨hlog, halert, hpart⟩ := h
  have hne : t.part ≠ .pfail ↔ s.part ≠ .pfail := not_congr hpart
  unfold State.KeepsFaultUnit State.alertExact State.logBounded
  rw [hlog, halert, hne]
  exact ⟨id, id⟩

/-- An operation after one that leaves the fault unit. -/
theorem State.KeepsFaultUnit.after_unit {s t u : State} (h' : t.KeepsFaultUnit u) (h : t.faultUnit = s.faultUnit) :
    s.KeepsFaultUnit u := (State.KeepsFaultUnit.of_unit h).trans h'

/-- An operation before one that leaves the fault unit. -/
theorem State.KeepsFaultUnit.then_unit {s t u : State} (h : s.KeepsFaultUnit t) (h' : u.faultUnit = t.faultUnit) :
    s.KeepsFaultUnit u := h.trans (.of_unit h')

/-- An operation that a command makes when its event is there to be taken (log 1). -/
theorem State.KeepsFaultUnit.ite {s t : State} {c : Prop} [Decidable c] (h : c → s.KeepsFaultUnit t) :
    s.KeepsFaultUnit (if c then t else s) := by
  split
  · exact h ‹c›
  · exact .refl s

/-! ## The line (R127) -/

theorem State.evalAlert_alertExact (s : State) : s.evalAlert.alertExact := by
  simp [State.alertExact, State.evalAlert, and_assoc]

theorem State.raise_alertExact (s : State) (d : FaultDetail) : (s.raise d).alertExact := by
  unfold State.raise
  dsimp only
  split <;> exact State.evalAlert_alertExact _

/-- With no cause pending and the line released, as a reset and the end of the supply leave them (Table 7-2). -/
theorem State.alertExact_of_reset {s : State} (h : s.alert = State.reset.alert) : s.alertExact := by
  simp [State.alertExact, h, State.reset]

/-! ## The bounds (R120 to R122) -/

theorem State.logBounded_of_le {s t : State} (hocc : t.log.occupancy ≤ s.log.occupancy)
    (hrec : t.log.recordCount ≤ s.log.recordCount) (h : s.logBounded) : t.logBounded := by
  unfold State.logBounded at h ⊢
  omega

theorem State.logBounded_of_reset {s : State} (h : s.log = State.reset.log) : s.logBounded := by
  unfold State.logBounded
  rw [h]
  decide

/-- An operation that leaves the alert unit and the part state, and of the log takes records or room, if anything. -/
theorem State.KeepsFaultUnit.of_le {s t : State} (ha : t.alert = s.alert) (hp : t.part = s.part)
    (hocc : t.log.occupancy ≤ s.log.occupancy) (hrec : t.log.recordCount ≤ s.log.recordCount) : s.KeepsFaultUnit t :=
  ⟨fun h => by unfold State.alertExact; rw [ha, hp]; exact h, State.logBounded_of_le hocc hrec⟩

/-- A reset and the end of the supply empty the log and release the line. -/
theorem State.KeepsFaultUnit.of_reset {s t : State} (hl : t.log = State.reset.log) (ha : t.alert = State.reset.alert) :
    s.KeepsFaultUnit t :=
  ⟨fun _ => State.alertExact_of_reset ha, fun _ => State.logBounded_of_reset hl⟩

/-! ## The Record Writer and the faults -/

theorem State.raise_keepsFaultUnit (s : State) (d : FaultDetail) : s.KeepsFaultUnit (s.raise d) := by
  refine ⟨fun _ => s.raise_alertExact d, fun h => ?_⟩
  cases hlogs : s.logs with
  | false =>
    refine State.logBounded_of_le (le_of_eq ?_) (le_of_eq ?_) h
    · rw [State.raise_log_of_lost hlogs]; rfl
    · rw [State.raise_log_of_lost hlogs]; rfl
  | true =>
    obtain ⟨queue, hand, hraise, hcount⟩ := State.raise_of_logged hlogs d
    have hocc : (s.raise d).log.occupancy = s.log.occupancy := by rw [hraise]; rfl
    simp only [State.logs, Bool.and_eq_true, decide_eq_true_eq] at hlogs
    obtain ⟨⟨-, hring⟩, hqueue⟩ := hlogs
    unfold State.logBounded
    omega

/-- An item that is no fault record leaves the bounds as they are. -/
theorem State.enqueue_keepsFaultUnit (s : State) {i : Item} (hi : i.isRecord = false) : s.KeepsFaultUnit (s.enqueue i) := by
  obtain ⟨queue, hand, h, hcount⟩ := s.enqueue_counts i
  have hsame : (s.enqueue i).log.recordCount = s.log.recordCount := by simpa [hi] using hcount
  exact .of_le (by rw [h]) (by rw [h]) (by rw [h]; rfl) hsame.le

/-- The item in hand ends: the record count falls by one when it was a fault record. -/
theorem State.endItem_counts (s : State) :
    s.endItem.log.occupancy = s.log.occupancy ∧ s.endItem.alert = s.alert ∧ s.endItem.part = s.part
      ∧ s.endItem.log.recordCount + (if s.log.inHand.any InHand.isRecord then 1 else 0) = s.log.recordCount := by
  obtain ⟨queue, hand, h, hcount⟩ := State.takeItem_counts { s with log := { s.log with inHand := none } }
  unfold State.endItem
  rw [hcount, h]
  exact ⟨rfl, rfl, rfl, rfl⟩

theorem State.endItem_keepsFaultUnit (s : State) : s.KeepsFaultUnit s.endItem := by
  obtain ⟨hocc, halert, hpart, hcount⟩ := s.endItem_counts
  exact .of_le halert hpart hocc.le (by omega)

/-- A record that reaches the ring gives up its place in the record queue (R122, R123). -/
theorem State.endRecord_keepsFaultUnit {s : State} (h : s.log.inHand.any InHand.isRecord = true) :
    s.KeepsFaultUnit ({ s with log := { s.log with producer := s.log.producer + 1 } } : State).endItem := by
  generalize ht : ({ s with log := { s.log with producer := s.log.producer + 1 } } : State) = t
  obtain ⟨hocc, halert, hpart, hcount⟩ := t.endItem_counts
  have hrecord : t.log.inHand.any InHand.isRecord = true := by rw [← ht]; exact h
  have hsame : t.log.recordCount = s.log.recordCount := by rw [← ht]; rfl
  have hnext : t.log.occupancy ≤ s.log.occupancy + 1 := by
    rw [← ht]
    simp only [FaultLog.occupancy]
    bv_omega
  rw [if_pos hrecord] at hcount
  refine ⟨fun hexact => ?_, fun ⟨hring, hqueue⟩ => ?_⟩
  · unfold State.alertExact
    rw [halert, hpart, ← ht]
    exact hexact
  · unfold State.logBounded
    omega

/-- The item in hand moves on and stays of its kind. -/
theorem State.setInHand_keepsFaultUnit {s : State} {h h' : InHand} (hs : s.log.inHand = some h)
    (hkind : h'.isRecord = h.isRecord) :
    s.KeepsFaultUnit { s with log := { s.log with inHand := some h' } } :=
  .of_le rfl rfl le_rfl (by simp [FaultLog.recordCount, hs, hkind])

theorem State.writerAdvance_keepsFaultUnit (s : State) (w : Word) : s.KeepsFaultUnit (s.writerAdvance w) := by
  unfold State.writerAdvance
  split
  · rename_i f index k hhand
    split
    · exact State.setInHand_keepsFaultUnit hhand rfl
    · exact State.endRecord_keepsFaultUnit (by rw [hhand]; rfl)
  · rename_i hhand
    split
    · exact State.setInHand_keepsFaultUnit hhand rfl
    · exact State.setInHand_keepsFaultUnit hhand rfl
    · exact State.setInHand_keepsFaultUnit hhand rfl
    · exact s.endItem_keepsFaultUnit
  · exact s.endItem_keepsFaultUnit
  · exact .refl s

theorem State.withdrawTorn_keepsFaultUnit (s : State) (b : Addr) : s.KeepsFaultUnit (s.withdrawTorn b) := by
  have filtered :
      s.KeepsFaultUnit { s with log := { s.log with queue := s.log.queue.filter fun i => !i.isTornOf b } } :=
    .of_le rfl rfl le_rfl (Nat.add_le_add_right (List.filter_sublist.countP_le) _)
  unfold State.withdrawTorn
  dsimp only
  split
  · exact filtered.trans (State.endItem_keepsFaultUnit _)
  · exact filtered

theorem countP_isRecord_replacePeriod (r : Fin 64) (n : Word) (q : List Item) :
    (replacePeriod r n q).countP Item.isRecord = q.countP Item.isRecord := by
  induction q with
  | nil => rfl
  | cons i rest ih =>
    cases i with
    | writeBack r' n' =>
      unfold replacePeriod
      split <;> simp [ih, Item.isRecord]
    | record f => simp [replacePeriod, List.countP_cons, ih]
    | torn base gen => simp [replacePeriod, List.countP_cons, ih]

theorem State.handWriteBack_keepsFaultUnit (s : State) (r : Fin 64) (n : Word) :
    s.KeepsFaultUnit (s.handWriteBack r n) := by
  unfold State.handWriteBack
  split
  · exact .of_le rfl rfl le_rfl (by simp [FaultLog.recordCount, countP_isRecord_replacePeriod])
  · exact s.enqueue_keepsFaultUnit rfl

/-! ## The Stage Pool, the Deadline Unit and the Diagnosis Engine -/

@[simp] theorem State.endAccess_faultUnit (s : State) (p : Port) (d : Option Word) :
    (s.endAccess p d).faultUnit = s.faultUnit := by
  simp [State.faultUnit]

@[simp] theorem State.hold_faultUnit (s : State) (p : Port) (c : WaitCause) (k : AccessClass) :
    (s.hold p c k).faultUnit = s.faultUnit := by
  simp [State.faultUnit]

@[simp] theorem State.updRegion_faultUnit (s : State) (r : Fin 64) (f : Region → Region) :
    (s.updRegion r f).faultUnit = s.faultUnit := by
  simp [State.faultUnit]

theorem State.discardFilling_keepsFaultUnit (s : State) (r : Fin 64) : s.KeepsFaultUnit (s.discardFilling r) := by
  unfold State.discardFilling
  split
  · exact (State.raise_keepsFaultUnit _ _).after_unit rfl
  · exact .refl s

theorem foldl_discardFilling_keepsFaultUnit (rs : List (Fin 64)) (s : State) :
    s.KeepsFaultUnit (rs.foldl State.discardFilling s) := by
  induction rs generalizing s with
  | nil => exact .refl s
  | cons r rest ih => exact (s.discardFilling_keepsFaultUnit r).trans (ih _)

theorem State.raiseLongest_keepsFaultUnit (s : State) (r : Fin 64) (x : Region) (ms : Nat) :
    s.KeepsFaultUnit (s.raiseLongest r x ms) := by
  unfold State.raiseLongest
  dsimp only
  split
  · exact .of_unit (s.updRegion_faultUnit r _)
  · exact (State.handWriteBack_keepsFaultUnit _ r _).after_unit (s.updRegion_faultUnit r _)

theorem State.takeSample_keepsFaultUnit (s : State) (r : Fin 64) (x : Region) : s.KeepsFaultUnit (s.takeSample r x) := by
  unfold State.takeSample
  split
  · exact .of_unit (s.updRegion_faultUnit r _)
  · dsimp only
    split
    · exact (State.raiseLongest_keepsFaultUnit _ r x _).after_unit (s.updRegion_faultUnit r _)
    · exact .of_unit (s.updRegion_faultUnit r _)

theorem State.deadlineCompletion_keepsFaultUnit (s : State) (r : Fin 64) : s.KeepsFaultUnit (s.deadlineCompletion r) := by
  unfold State.deadlineCompletion
  split
  · split
    · exact s.takeSample_keepsFaultUnit r _
    · exact .of_unit (s.updRegion_faultUnit r _)
  · exact .refl s

theorem State.expireDeadline_keepsFaultUnit (s : State) (r : Fin 64) : s.KeepsFaultUnit (s.expireDeadline r) := by
  unfold State.expireDeadline
  split
  · have marked (f : Region → Region) (d : FaultDetail) : s.KeepsFaultUnit ((s.updRegion r f).raise d) :=
      (State.raise_keepsFaultUnit _ d).after_unit (s.updRegion_faultUnit r f)
    dsimp only
    split
    · exact (marked _ _).then_unit rfl
    · exact marked _ _
  · exact .refl s

theorem State.diagDone_keepsFaultUnit (s : State) (w : Word) : s.KeepsFaultUnit (s.diagDone w) := by
  unfold State.diagDone State.testCondition
  split
  · split
    · exact .refl s
    · split
      · exact (State.raise_keepsFaultUnit _ _).after_unit rfl
      · exact .of_unit rfl
  · exact .refl s

/-! ## The Commit Engine -/

theorem State.startCommit_keepsFaultUnit (s : State) (k : Fin 12) (r : Fin 64) (x : Region) :
    s.KeepsFaultUnit (s.startCommit k r x) := by
  have withdrawn (t : State) (f : Region → Region) (p : Port) :
      ((((t.updRegion r f).breakSession r).withdrawReader p r).holdScan r).faultUnit = t.faultUnit := by
    obtain ⟨sa, sb, h⟩ := (t.updRegion r f).breakSession_only r
    obtain ⟨pa, pb, h'⟩ := ((t.updRegion r f).breakSession r).withdrawReader_only p r
    obtain ⟨n, h''⟩ := (((t.updRegion r f).breakSession r).withdrawReader p r).holdScan_only r
    rw [h'', h', h]
    exact t.updRegion_faultUnit r f
  exact (State.withdrawTorn_keepsFaultUnit _ _).after_unit (withdrawn _ _ _)

theorem State.startSelected_keepsFaultUnit (s : State) : s.KeepsFaultUnit s.startSelected := by
  unfold State.startSelected
  split
  · split
    · split
      · exact s.startCommit_keepsFaultUnit _ _ _
      · exact .refl s
    · exact .refl s
  · exact .refl s

theorem State.tellCompletion_keepsFaultUnit (s : State) (r : Fin 64) : s.KeepsFaultUnit (s.tellCompletion r) := by
  have released : ((s.serveWaiting.releaseReader .a r).releaseReader .b r).faultUnit = s.faultUnit := by
    obtain ⟨w, sl, q, l, pa, pb, h⟩ := s.serveWaiting_only
    obtain ⟨l', a, b, x, y, h'⟩ := s.serveWaiting.releaseReader_only .a r
    obtain ⟨l'', a', b', x', y', h''⟩ := (s.serveWaiting.releaseReader .a r).releaseReader_only .b r
    rw [h'', h', h]; rfl
  have withdrawn (t : State) : (t.diagCompletion r).faultUnit = t.faultUnit := by
    obtain ⟨q, n, h⟩ := t.diagCompletion_only r
    rw [h]; rfl
  exact ((State.deadlineCompletion_keepsFaultUnit _ r).after_unit released).then_unit (withdrawn _)

theorem State.commitWriteDone_keepsFaultUnit (s : State) : s.KeepsFaultUnit s.commitWriteDone := by
  unfold State.commitWriteDone State.finishCommit
  dsimp only
  split
  · split
    · have marked (f : Region → Region) (r : Fin 64) (k : Fin 12) :
          ({ (s.updRegion r f).setSlot k Slot.empty with commit := none } : State).faultUnit = s.faultUnit :=
        s.updRegion_faultUnit r f
      split
      · exact .of_unit (marked _ _ _)
      · exact (State.tellCompletion_keepsFaultUnit _ _).after_unit (marked _ _ _)
    · exact .of_unit rfl
  · exact .refl s

/-! ## The alert unit (R129 to R131) -/

/-- An operation of the alert unit that has the line evaluated again leaves it exact (R127, R129 to R131). -/
theorem State.evalAlert_keepsFaultUnit {s t : State} (h : t.log = s.log) : s.KeepsFaultUnit t.evalAlert :=
  ⟨fun _ => t.evalAlert_alertExact, State.logBounded_of_le (by rw [State.evalAlert_log, h]) (by rw [State.evalAlert_log, h])⟩

theorem State.setMask_keepsFaultUnit (s : State) (v : Word) : s.KeepsFaultUnit (s.setMask v) :=
  State.evalAlert_keepsFaultUnit rfl

theorem State.acknowledge_keepsFaultUnit (s : State) (v : Word) : s.KeepsFaultUnit (s.acknowledge v) :=
  State.evalAlert_keepsFaultUnit rfl

theorem State.endHoldoff_keepsFaultUnit (s : State) : s.KeepsFaultUnit s.endHoldoff := State.evalAlert_keepsFaultUnit rfl

/-! ## The Access Classifier -/

theorem State.refuse_keepsFaultUnit (s : State) (p : Port) (a : Addr) (v : Word) : s.KeepsFaultUnit (s.refuse p a v) :=
  (State.raise_keepsFaultUnit _ _).after_unit (s.endAccess_faultUnit p none)

/-- The line does not depend on n (R127). -/
theorem State.writeHoldoff_keepsFaultUnit (s : State) (p : Port) (a : Addr) (v : Word) :
    s.KeepsFaultUnit (s.writeHoldoff p a v) := by
  unfold State.writeHoldoff
  split
  · refine State.KeepsFaultUnit.then_unit ?_ (State.endAccess_faultUnit _ p none)
    exact ⟨id, id⟩
  · exact s.refuse_keepsFaultUnit p a v

/-- A value that FAULT CONSUMER takes leaves the occupancy no greater (R125). -/
theorem State.writeConsumer_keepsFaultUnit (s : State) (p : Port) (a : Addr) (v : Word) :
    s.KeepsFaultUnit (s.writeConsumer p a v) := by
  unfold State.writeConsumer
  split
  · rename_i h
    refine State.KeepsFaultUnit.then_unit ?_ (State.endAccess_faultUnit _ p none)
    simp only [FaultLog.consumes, Bool.and_eq_true, decide_eq_true_eq] at h
    obtain ⟨-, hocc⟩ := h
    exact .of_le rfl rfl hocc le_rfl
  · exact s.refuse_keepsFaultUnit p a v

theorem State.statusWrite_keepsFaultUnit (s : State) (p : Port) (a : Addr) (v : Word) :
    s.KeepsFaultUnit (s.statusWrite p a v) := by
  unfold State.statusWrite
  split
  · exact (s.setMask_keepsFaultUnit v).then_unit (State.endAccess_faultUnit _ _ _)
  · exact (s.acknowledge_keepsFaultUnit v).then_unit (State.endAccess_faultUnit _ _ _)
  · exact s.writeHoldoff_keepsFaultUnit _ a v
  · exact s.writeConsumer_keepsFaultUnit _ a v
  · exact s.refuse_keepsFaultUnit _ a v

theorem State.endInPfail_keepsFaultUnit (s : State) (p : Port) (a : Access) : s.KeepsFaultUnit (s.endInPfail p a) := by
  unfold State.endInPfail
  dsimp only
  split
  · exact (State.raise_keepsFaultUnit _ _).after_unit (s.endAccess_faultUnit p _)
  · exact .of_unit (s.endAccess_faultUnit p _)

theorem State.regionAccess_keepsFaultUnit (s : State) (p : Port) (a : Access) (r : Fin 64) (x : Region) :
    s.KeepsFaultUnit (s.regionAccess p a r x) := by
  unfold State.regionAccess
  dsimp only
  split
  · refine .of_unit ?_
    split
    · split
      · obtain ⟨w, sl, q, l, pa, pb, h⟩ := s.ownerSeal_only p r
        rw [h]; rfl
      · obtain ⟨w, sl, pa, pb, h⟩ := s.ownerBodyWrite_only p r (x.entry.offset a.addr) a.value
        rw [h]; rfl
    · split
      · obtain ⟨pa, pb, h⟩ := s.ownerHeaderRead_only p r
        rw [h]; rfl
      · obtain ⟨pa, pb, h⟩ := s.ownerBodyRead_only p r (x.entry.offset a.addr)
        rw [h]; rfl
  · split
    · exact s.refuse_keepsFaultUnit p _ _
    · refine .of_unit ?_
      split
      · obtain ⟨l, sa, sb, pa, pb, h⟩ := s.readerHeaderRead_only p r
        rw [h]; rfl
      · exact s.hold_faultUnit _ _ _

theorem State.statusAccess_keepsFaultUnit (s : State) (p : Port) (a : Access) : s.KeepsFaultUnit (s.statusAccess p a) := by
  unfold State.statusAccess
  split
  · obtain ⟨pa, pb, h⟩ := s.statusRead_only p (statusWord a.addr)
    rw [h]; exact .of_unit rfl
  · split
    · exact .of_unit (s.hold_faultUnit _ _ _)
    · exact s.statusWrite_keepsFaultUnit p _ _

theorem State.controlAccess_keepsFaultUnit (s : State) (p : Port) (a : Access) :
    s.KeepsFaultUnit (s.controlAccess p a) := by
  have waits (c : WaitCause) (k : AccessClass) : s.KeepsFaultUnit (s.hold p c k) := .of_unit (s.hold_faultUnit _ _ _)
  unfold State.controlAccess
  cases s.part with
  | active | draining =>
    dsimp only
    split
    · exact s.refuse_keepsFaultUnit p _ _
    · exact waits _ _
  | loading | bypass | pfail => exact waits _ _

theorem State.lowAccess_keepsFaultUnit (s : State) (p : Port) (a : Access) : s.KeepsFaultUnit (s.lowAccess p a) := by
  have waits (c : WaitCause) (k : AccessClass) : s.KeepsFaultUnit (s.hold p c k) := .of_unit (s.hold_faultUnit _ _ _)
  unfold State.lowAccess
  cases s.part with
  | loading | bypass | pfail => exact waits _ _
  | draining => dsimp only; split <;> exact waits _ _
  | active =>
    dsimp only
    split
    · split
      · exact s.regionAccess_keepsFaultUnit _ _ _ _
      · exact waits _ _
    · exact waits _ _

theorem State.dispatch_keepsFaultUnit (s : State) (p : Port) (a : Access) : s.KeepsFaultUnit (s.dispatch p a) := by
  unfold State.dispatch
  split
  · exact s.endInPfail_keepsFaultUnit p a
  · split
    · exact s.statusAccess_keepsFaultUnit p a
    · split
      · exact s.controlAccess_keepsFaultUnit p a
      · exact s.lowAccess_keepsFaultUnit p a

theorem State.arrive_keepsFaultUnit (s : State) (p : Port) (d : Dir) (a : Addr) (v : Word) :
    s.KeepsFaultUnit (s.arrive p d a v) :=
  (State.dispatch_keepsFaultUnit _ p _).after_unit (by simp [State.faultUnit])

theorem State.offer_keepsFaultUnit (s : State) (p : Port) (d : Dir) (a : Addr) (v : Word) :
    s.KeepsFaultUnit (s.offer p d a v) := by
  have strobed : (s.strobe p).faultUnit = s.faultUnit := by simp [State.faultUnit]
  unfold State.offer
  split
  · exact .refl s
  · split
    · refine State.KeepsFaultUnit.after_unit (.of_unit ?_) strobed
      unfold State.record
      split
      · rfl
      · simp [State.faultUnit]
    · split
      · exact .of_unit strobed
      · exact (State.arrive_keepsFaultUnit _ p d a v).after_unit strobed

theorem State.takeAfresh_keepsFaultUnit (s : State) (p : Port) : s.KeepsFaultUnit (s.takeAfresh p) := by
  unfold State.takeAfresh
  split
  · exact .ite fun _ => s.dispatch_keepsFaultUnit p _
  · exact .refl s

theorem State.releaseLoad_keepsFaultUnit (s : State) : s.KeepsFaultUnit s.releaseLoad := by
  have both (t : State) (p q : Port) (h : t.faultUnit = s.faultUnit) :
      s.KeepsFaultUnit ((t.takeAfresh p).takeAfresh q) :=
    ((t.takeAfresh_keepsFaultUnit p).trans (State.takeAfresh_keepsFaultUnit _ q)).after_unit h
  unfold State.releaseLoad
  dsimp only
  split
  · split
    · exact both _ .a .b rfl
    · exact both _ .b .a rfl
  · exact both _ .a .b rfl

/-! ## The Table Loader -/

section
variable {s : State} (hp : s.part ≠ .pfail)
include hp

/-- Outside PFAIL a change of the part state to another such state leaves the line as it is (R127). -/
theorem State.faultUnit_of_part {t : State} (hl : t.log = s.log) (ha : t.alert = s.alert) (ht : t.part ≠ .pfail) :
    t.faultUnit = s.faultUnit :=
  State.faultUnit_eq hl ha (iff_of_false ht hp)

theorem State.startLoad_faultUnit (o : Origin) : (s.startLoad o).faultUnit = s.faultUnit :=
  State.faultUnit_of_part hp rfl rfl (by simp [State.startLoad])

theorem State.returnToOrigin_faultUnit : s.returnToOrigin.faultUnit = s.faultUnit := by
  unfold State.returnToOrigin
  split <;> exact State.faultUnit_of_part hp rfl rfl (by simp)

theorem State.startUpDone_faultUnit (format autoload : Word) : (s.startUpDone format autoload).faultUnit = s.faultUnit := by
  unfold State.startUpDone
  split
  · exact State.startLoad_faultUnit hp _
  · rfl

theorem State.succeedLoad_keepsFaultUnit (found : List Found) : s.KeepsFaultUnit (s.succeedLoad found) :=
  (State.releaseLoad_keepsFaultUnit _).after_unit (State.faultUnit_of_part hp rfl rfl (by simp [State.swap]))

theorem State.failLoad_keepsFaultUnit (reason : LoadResult) : s.KeepsFaultUnit (s.failLoad reason) := by
  have hraised : (s.raise (.load reason.code reason.index)).part ≠ .pfail := by rwa [State.raise_part]
  have returned : (((s.raise (.load reason.code reason.index)).dropShadow reason).returnToOrigin).faultUnit =
      (s.raise (.load reason.code reason.index)).faultUnit :=
    State.returnToOrigin_faultUnit (s := (s.raise _).dropShadow reason) hraised
  exact ((s.raise_keepsFaultUnit _).then_unit returned).trans (State.releaseLoad_keepsFaultUnit _)

theorem State.finishUnload_keepsFaultUnit : s.KeepsFaultUnit s.finishUnload :=
  (State.releaseLoad_keepsFaultUnit _).after_unit (State.faultUnit_of_part hp rfl rfl (by simp))

theorem State.enterDraining_keepsFaultUnit (c : Command) : s.KeepsFaultUnit (s.enterDraining c) := by
  generalize he : ({ s with part := .draining, ldr := { s.ldr with command := some c }, diagQueue := [] } : State) = e
  have entered : e.faultUnit = s.faultUnit := by
    rw [← he]
    exact State.faultUnit_of_part hp rfl rfl (by simp)
  have withdrawn : (((e.withdrawWaiting.commitWaitToLoad .a).commitWaitToLoad .b).breakSessions).faultUnit = e.faultUnit := by
    obtain ⟨pa, pb, h⟩ := e.withdrawn_only
    rw [h]; rfl
  unfold State.enterDraining
  dsimp only
  rw [he]
  exact (foldl_discardFilling_keepsFaultUnit _ _).after_unit (withdrawn.trans entered)

theorem State.endDrain_faultUnit : s.endDrain.faultUnit = s.faultUnit := by
  unfold State.endDrain
  dsimp only
  split
  · exact State.faultUnit_of_part hp rfl rfl (by simp [State.startLoad])
  · rfl
  · rfl

end

theorem State.shadowReadDone_faultUnit (s : State) (w : Word) : (s.shadowReadDone w).faultUnit = s.faultUnit := by
  unfold State.shadowReadDone State.endShadowRead
  dsimp only
  split
  · split <;> rfl
  · rfl

theorem State.tornScanDone_keepsFaultUnit (s : State) (i : Fin 64) (rest : List (Fin 64)) (found : List Found) (w : Word) :
    s.KeepsFaultUnit (s.tornScanDone i rest found w) := by
  unfold State.tornScanDone
  dsimp only
  split
  · exact ((State.raise_keepsFaultUnit _ _).trans (State.enqueue_keepsFaultUnit _ rfl)).after_unit rfl
  · exact .of_unit rfl

theorem State.loaderDone_keepsFaultUnit (s : State) (w : Word) : s.KeepsFaultUnit (s.loaderDone w) := by
  unfold State.loaderDone State.loaderAdvance
  split
  · exact .refl s
  · rename_i hp
    split
    · exact .refl s
    · exact .of_unit rfl
    · exact .of_unit (State.startUpDone_faultUnit hp _ _)
    · exact .of_unit (s.shadowReadDone_faultUnit w)
    · exact s.tornScanDone_keepsFaultUnit _ _ _ _
    · exact State.succeedLoad_keepsFaultUnit hp _
    · exact State.failLoad_keepsFaultUnit hp _
    · exact State.finishUnload_keepsFaultUnit hp

theorem State.takeCommand_keepsFaultUnit (s : State) (c : Command) (waited : Bool) :
    s.KeepsFaultUnit (s.takeCommand c waited) := by
  have busy : s.KeepsFaultUnit s.raiseBusy := s.raise_keepsFaultUnit _
  unfold State.takeCommand
  split
  · exact busy
  · split
    · exact .of_unit (State.startLoad_faultUnit (by simp [*]) _)
    · exact .refl s
    · exact State.enterDraining_keepsFaultUnit (by simp [*]) _
    · exact busy
    · exact busy
    · exact busy

theorem State.hostDone_keepsFaultUnit (s : State) (p : Port) (c : Cycle) : s.KeepsFaultUnit (s.hostDone p c) := by
  have answered (d : Option Word) : (if s.part = .pfail then s else s.endAccess p d).faultUnit = s.faultUnit := by
    split
    · rfl
    · simp
  unfold State.hostDone
  dsimp only
  split
  · exact (State.takeCommand_keepsFaultUnit _ _ _).after_unit (answered _)
  · exact .of_unit (answered _)

/-! ## The memory port and the lines -/

theorem State.completeCycle_keepsFaultUnit (s : State) (c : Cycle) : s.KeepsFaultUnit (s.completeCycle c) := by
  unfold State.completeCycle
  dsimp only
  refine State.KeepsFaultUnit.after_unit (t := { s with mem := s.memCarried, cycle := none }) ?_ rfl
  split
  · exact State.hostDone_keepsFaultUnit _ _ c
  · exact State.commitWriteDone_keepsFaultUnit _
  · exact State.loaderDone_keepsFaultUnit _ _
  · exact State.writerAdvance_keepsFaultUnit _ _
  · exact State.diagDone_keepsFaultUnit _ _

theorem State.expireWait_keepsFaultUnit (s : State) (p : Port) (a : Access) (c : WaitCause) :
    s.KeepsFaultUnit (s.expireWait p a c) :=
  (State.raise_keepsFaultUnit _ _).after_unit
    (State.endAccess_faultUnit { s with waiting := s.waiting.filter fun w => w.port != p } p _)

/-- The fall drops the waiting records and releases the line (R127, R133). -/
theorem State.takeFall_keepsFaultUnit (s : State) : s.KeepsFaultUnit s.takeFall := by
  unfold State.takeFall
  split
  · exact .refl s
  · rw [State.enterPfail_eq]
    refine ⟨fun _ => by simp [State.alertExact], State.logBounded_of_le le_rfl ?_⟩
    simp [FaultLog.recordCount]

theorem State.takeDueFall_keepsFaultUnit (s : State) : s.KeepsFaultUnit s.takeDueFall :=
  .ite fun _ => s.takeFall_keepsFaultUnit

theorem State.completeIf_keepsFaultUnit (s : State) (atHand : Bool) : s.KeepsFaultUnit (s.completeIf atHand) := by
  refine .ite fun _ => s.takeDueFall_keepsFaultUnit.trans ?_
  unfold State.complete
  dsimp only
  split
  · exact State.completeCycle_keepsFaultUnit _ _
  · exact .refl _

theorem State.resetLow_keepsFaultUnit (s : State) (periods : Nat) : s.KeepsFaultUnit (s.resetLow periods) := by
  unfold State.resetLow
  split
  · exact .refl s
  · split
    · exact .of_reset rfl rfl
    · exact .ite fun _ => s.takeDueFall_keepsFaultUnit.then_unit rfl

theorem State.takeRecorded_keepsFaultUnit (s : State) (p : Port) (q : Option Recorded) :
    s.KeepsFaultUnit (s.takeRecorded p q) := by
  unfold State.takeRecorded
  split
  · exact s.arrive_keepsFaultUnit p _ _ _
  · exact .refl s

/-- The release leaves an empty log and a released line to the accesses that were recorded. -/
theorem State.release_keepsFaultUnit (s : State) (pfailLow : Bool) : s.KeepsFaultUnit (s.release pfailLow) := by
  have both (t : State) (p q : Port) (ra rb : Option Recorded) (h : t.log = State.reset.log)
      (h' : t.alert = State.reset.alert) : s.KeepsFaultUnit ((t.takeRecorded p ra).takeRecorded q rb) :=
    State.KeepsFaultUnit.trans (.of_reset h h')
      ((t.takeRecorded_keepsFaultUnit p ra).trans (State.takeRecorded_keepsFaultUnit _ q rb))
  unfold State.release
  dsimp only
  split
  · split
    · exact both _ .a .b _ _ rfl rfl
    · exact both _ .b .a _ _ rfl rfl
  · exact both _ .a .b _ _ rfl rfl

theorem State.endShortPulse_keepsFaultUnit (s : State) (pfailLow : Bool) :
    s.KeepsFaultUnit (s.endShortPulse pfailLow) := by
  unfold State.endShortPulse
  dsimp only
  split
  · exact (State.takeFall_keepsFaultUnit _).after_unit rfl
  · exact .of_unit rfl

theorem State.pfailFalls_keepsFaultUnit (s : State) : s.KeepsFaultUnit s.pfailFalls := by
  unfold State.pfailFalls
  dsimp only
  split
  · exact (State.takeFall_keepsFaultUnit _).after_unit rfl
  · exact .of_unit rfl

theorem State.loseSupply_keepsFaultUnit (s : State) : s.KeepsFaultUnit s.loseSupply := by
  unfold State.loseSupply
  dsimp only
  split
  · split <;> exact .of_reset rfl rfl
  · exact .of_reset rfl rfl

/-! ## Every command and every step -/

theorem exec_keepsFaultUnit (c : Instr) (s : State) : ∃ t, exec c s = .next t ∧ s.KeepsFaultUnit t := by
  cases c with
  | accessArrival p oe we a v =>
    refine ⟨_, rfl, ?_⟩
    split
    · exact s.offer_keepsFaultUnit _ _ _ _
    · split
      · exact s.offer_keepsFaultUnit _ _ _ _
      · exact .ite fun _ => .of_unit (by simp [State.faultUnit])
  | alertMaskWrite v | acknowledge v | alertHoldoffWrite v | faultConsumerWrite v | timeLowRead p =>
    exact ⟨_, rfl, s.offer_keepsFaultUnit _ _ _ _⟩
  | statusBlockWriteRefused p w v =>
    refine ⟨_, rfl, ?_⟩
    split
    · exact .refl s
    · exact s.offer_keepsFaultUnit _ _ _ _
  | loadCommand | unloadCommand | startUpReadsQualify | memoryCycleCompletion | commitCompletion | scanEnd | faultRecordEnd
  | writeBackEnd | shadowReadEnd | loadSuccess | loadFailure | unloadEnd =>
    exact ⟨_, rfl, s.completeIf_keepsFaultUnit _⟩
  | resetNFalling n => exact ⟨_, rfl, s.resetLow_keepsFaultUnit n⟩
  | shortResetPulseEnd low => exact ⟨_, rfl, .ite fun _ => s.endShortPulse_keepsFaultUnit low⟩
  | resetNRelease low =>
    have due : s.KeepsFaultUnit s.takeDueReset := .ite fun _ => s.resetLow_keepsFaultUnit _
    exact ⟨_, rfl, due.trans (.ite fun _ => State.release_keepsFaultUnit _ low)⟩
  | pfailNFalling => exact ⟨_, rfl, .ite fun _ => s.pfailFalls_keepsFaultUnit⟩
  | holdTimerExpiry r =>
    obtain ⟨l, a, b, h⟩ := s.expireHold_only r
    exact ⟨_, rfl, .ite fun _ => by rw [h]; exact .of_unit rfl⟩
  | deadlineExpiry r => exact ⟨_, rfl, .ite fun _ => s.expireDeadline_keepsFaultUnit r⟩
  | waitLimitExpiry p =>
    refine ⟨_, rfl, .ite fun _ => ?_⟩
    split
    · split
      · exact s.expireWait_keepsFaultUnit _ _ _
      · exact .refl s
    · exact .refl s
  | holdoffExpiry => exact ⟨_, rfl, .ite fun _ => s.endHoldoff_keepsFaultUnit⟩
  | arbiterGrant =>
    obtain ⟨c, k, a, b, h⟩ := s.grant_only
    exact ⟨_, rfl, .ite fun _ => by rw [h]; exact .of_unit rfl⟩
  | commitStart => exact ⟨_, rfl, .ite fun _ => s.startSelected_keepsFaultUnit⟩
  | scanStart =>
    obtain ⟨q, c, h⟩ := s.beginScan_only
    exact ⟨_, rfl, .ite fun _ => by rw [h]; exact .of_unit rfl⟩
  | drainEnd =>
    refine ⟨_, rfl, .ite fun h => ?_⟩
    obtain ⟨-, hends⟩ := (Bool.and_eq_true_iff).1 h
    obtain ⟨hpart, -⟩ := s.drainEnds_iff.1 hends
    exact .of_unit (State.endDrain_faultUnit (by simp [hpart]))
  | lossOfSupply => exact ⟨_, rfl, .ite fun _ => s.loseSupply_keepsFaultUnit⟩

theorem step_keepsFaultUnit (s : State) : ∃ t, step s = .next t ∧ s.KeepsFaultUnit t := by
  have taken (c : Instr) (t : State) (ht : t.faultUnit = s.faultUnit) :
      ∃ u, exec c t = .next u ∧ s.KeepsFaultUnit u := by
    obtain ⟨u, hu, h⟩ := exec_keepsFaultUnit c t
    exact ⟨u, hu, h.after_unit ht⟩
  unfold step
  split
  · exact taken _ _ rfl
  · unfold State.idleEvent
    cases s.dueEvents with
    | nil => exact ⟨s.tick, rfl, .ite fun _ => .of_unit rfl⟩
    | cons c rest =>
      cases rest with
      | nil => exact taken _ _ rfl
      | cons d rest => exact taken _ _ rfl

theorem keepsFaultUnit_of_step {s t : State} (hstep : step s = .next t) : s.KeepsFaultUnit t := by
  obtain ⟨u, hu, h⟩ := step_keepsFaultUnit s
  obtain rfl : u = t := Host.Outcome.next.inj (hu.symm.trans hstep)
  exact h

/-- Settles O6: the line is evaluated again wherever an operation changes what it depends on, and the part state enters and
leaves PFAIL only with the line released. -/
theorem stepKeepsAlertLineExact : Obligations.StepKeepsAlertLineExact :=
  fun _ _ hexact hstep => (keepsFaultUnit_of_step hstep).1 hexact

/-- Settles O8: a record is logged only where the ring and the record queue have room, and its place in the ring is taken as it
leaves the record queue. -/
theorem stepKeepsFaultLogBounded : Obligations.StepKeepsFaultLogBounded :=
  fun _ _ hbounded hstep => (keepsFaultUnit_of_step hstep).2 hbounded

end Sys2Proof.Machine
end

section
/-! Reads of the Status Block (O18), and the writes of FAULT CONSUMER (O20). -/

namespace Sys2Proof.Machine

/-! ## FAULT CONSUMER (R125) -/

/-- The words from one place of the ring up to another, counted without borrow (R122, R125). -/
theorem ringDistance_toNat (p c : BitVec 6) : (p - c).toNat = (p.toNat + 64 - c.toNat) % 64 := by
  rw [BitVec.toNat_sub]; omega

/-- FAULT CONSUMER takes a value that lies in ring order from C up to P. -/
theorem FaultLog.consumes_iff (l : FaultLog) (v : Word) :
    l.consumes v = true ↔
      v.toNat ≤ 63 ∧ (l.producer.toNat + 64 - v.toNat) % 64 ≤ (l.producer.toNat + 64 - l.consumer.toNat) % 64 := by
  simp only [FaultLog.consumes, FaultLog.occupancy, Bool.and_eq_true, decide_eq_true_eq, ringDistance_toNat]
  refine and_congr_right fun hv => ?_
  have hlow : (v.extractLsb' 0 6).toNat = v.toNat := by
    rw [BitVec.extractLsb'_toNat, Nat.shiftRight_zero]; omega
  rw [hlow]

theorem State.statusWrite_of_consumerWord (s : State) (v : Word) :
    s.statusWrite .a (statusAddr 6) v =
      if s.log.consumes v then { s.endAccess .a none with log := { s.log with consumer := v.extractLsb' 0 6 } }
      else (s.endAccess .a none).raise (.protect .a (statusAddr 6) v) := by
  unfold State.statusWrite
  rw [statusWord_statusAddr]
  rfl

/-- Settles O20: port A's write is `statusWrite` of the word; port B's is one of the refused writes of R136. -/
theorem faultConsumerWriteConsumes : Obligations.FaultConsumerWriteConsumes := by
  intro s v hl hp
  refine ⟨fun hready => ?_, fun hready => ?_⟩
  · have hexec : exec (.faultConsumerWrite v) s = .next (s.offer .a .write (statusAddr 6) v) := rfl
    rw [hexec, State.offer_of_statusWrite hready hl hp, State.statusWrite_of_consumerWord, State.register_endAccess]
    simp only [State.register_log, State.strobe_log, s.log.consumes_iff v]
    rfl
  · obtain ⟨hrefused, -, -⟩ := refusedWritesOnlyRaiseProtect s .b false 0#18 v hready
    exact hrefused 6 hl hp (.inl rfl)

/-! ## Status Block reads (R135) -/

/-- Outside PFAIL a read of a Status Block word at a ready port is the Status Block's to answer. -/
theorem State.offer_of_statusRead {s : State} {p : Port} (h : s.portReady p) (hp : s.part ≠ .pfail) (w : Fin 16)
    (v : Word) :
    s.offer p .read (statusAddr w) v =
      ((s.strobe p).register p (s.newAccess .read (statusAddr w) v)).statusRead p w := by
  have haddr := statusAddr_toNat w
  have hnew : (s.strobe p).newAccess .read (statusAddr w) v = s.newAccess .read (statusAddr w) v := by cases p <;> rfl
  rw [State.offer_of_ready h, State.arrive, hnew, State.dispatch_of_status (by simpa using hp)
    (by rw [State.newAccess_addr]; omega), State.statusAccess]
  simp only [State.newAccess_dir, State.newAccess_addr, statusWord_statusAddr]

/-- FREE SLOTS counts the slots in state FREE (R18). -/
theorem State.freeSlots_eq (s : State) : s.freeSlots = s.slots.toList.countP fun x => x.state == .free := by
  have hslots : s.slots.toList = (List.finRange 12).map fun k => s.slots[k] :=
    List.ext_getElem (by simp) (by simp)
  rw [hslots, List.countP_map]
  rfl

/-- What the words of the Status Block are answered with, in the order of Table 8-11. -/
def State.statusWords (s : State) (p : Port) : List Word :=
  [ s.part.code, s.ldr.result.word, s.alert.mask.setWidth 16, s.alert.pending.setWidth 16, s.alert.n.setWidth 16
  , s.log.producer.setWidth 16, s.log.consumer.setWidth 16, s.log.nextSeq, s.time.extractLsb' 0 16, (s.port p).latch
  , BitVec.ofNat 16 s.freeSlots, BitVec.ofNat 16 s.commitQueue.length, BitVec.ofNat 16 s.sessionsA.length
  , BitVec.ofNat 16 s.sessionsB.length, BitVec.ofNat 16 s.diagQueue.length, s.ldr.liveCheck ]

theorem State.statusValue_eq (s : State) (p : Port) (w : Fin 16) :
    s.statusValue p w = (s.statusWords p).getD w.val 0#16 := by
  fin_cases w <;> rfl

/-- An arrival leaves the words of the Status Block. -/
theorem State.register_statusValue (s : State) (p : Port) (a : Access) (w : Fin 16) :
    ((s.strobe p).register p a).statusValue p w = s.statusValue p w := by
  rw [State.statusValue_eq, State.statusValue_eq]
  cases p <;> rfl

/-- A read of a Status Block word that is answered at its arrival; TIME LOW latches (R89, R135). -/
theorem State.register_statusRead (s : State) (p : Port) (a : Access) (w : Fin 16) :
    ((s.strobe p).register p a).statusRead p w =
      if w = 8 then (s.answered p (some (s.statusValue p w))).latchTime p else s.answered p (some (s.statusValue p w)) := by
  unfold State.statusRead
  rw [State.register_statusValue]
  split
  · cases p <;> rfl
  · exact State.register_endAccess s p a _

/-- The latch takes the high half of the count of the arrival (R89). -/
theorem State.latchTime_answered (s : State) (p : Port) (d : Option Word) :
    (s.answered p d).latchTime p =
      (s.answered p d).setPort p { (s.answered p d).port p with latch := s.time.extractLsb' 16 16 } := by
  cases p <;> rfl

/-- Settles O18: the read is `statusRead` of the word, and TIME_LOW_READ that of word 8. -/
theorem statusBlockReadAnswersAtOnce : Obligations.StatusBlockReadAnswersAtOnce := by
  intro s p w v hready hp value
  have hread (w : Fin 16) (v : Word) : exec (.accessArrival p true false (statusAddr w) v) s = .next
      (if w = 8 then (s.answered p (some (s.statusValue p w))).latchTime p
       else s.answered p (some (s.statusValue p w))) := by
    rw [exec_accessArrival_read, State.offer_of_statusRead hready hp, State.register_statusRead]
  have hvalue : s.statusValue p w = value := by
    rw [State.statusValue_eq, State.statusWords, State.freeSlots_eq]
    rfl
  refine ⟨?_, ?_⟩
  · rw [← hvalue]
    exact (hread w v).trans (by rw [State.latchTime_answered])
  · have hlow : exec (.timeLowRead p) s = exec (.accessArrival p true false (statusAddr 8) 0#16) s := rfl
    rw [hlow, hread, if_pos rfl]
    cases p <;> rfl

end Sys2Proof.Machine
end

section
/-! The start-up reads (O52), and the LOAD and UNLOAD commands taken against the part state (O49). -/

namespace Sys2Proof.Machine

/-! ## The start-up reads (R143) -/

/-- With any other pair of words than 0001H and 0001H the Loader rests. -/
theorem State.startUpDone_of_unqualified {format autoload : Word} (h : ¬ (format = 1#16 ∧ autoload = 1#16)) (s : State) :
    s.startUpDone format autoload = s.setWork .idle := if_neg h

/-- Settles O52: both reads are completions of the Loader's cycle, the second one `startUpDone`. -/
theorem startUpReadsDecideTheAutoload : Obligations.StartUpReadsDecideTheAutoload := by
  intro s format autoload hr hd hp
  have hout : s.part ≠ .pfail := by simp [hp]
  refine ⟨fun hwork hc => ?_, fun hwork hc => ⟨?_, fun hnot => ?_⟩⟩
  · rw [exec_memoryCycleCompletion_of_cycle hr hd hc, State.completeCycle_of_loaderRead hc hout]
    simp only [State.loaderAdvance, hwork, State.setWork]
  · rintro rfl rfl
    have hqualifies : s.startUpQualifies = true := by simp [State.startUpQualifies, hc, hwork]
    have hexec : exec .startUpReadsQualify s = .next (s.completeIf s.startUpQualifies) := rfl
    rw [hexec, State.completeIf_of_cycle hr hd hc hqualifies, State.completeCycle_of_loaderRead hc hout]
    simp only [State.loaderAdvance, hwork]
    rfl
  · rw [exec_memoryCycleCompletion_of_cycle hr hd hc, State.completeCycle_of_loaderRead hc hout]
    simp only [State.loaderAdvance, hwork, State.startUpDone_of_unqualified hnot, State.setWork]

/-! ## The commands (R141, R142) -/

/-- The row of a command: the completion of the write that gives it. -/
def Command.row : Command → Instr
  | .load => .loadCommand
  | .unload => .unloadCommand

section
variable {s : State} {cmd : Command} {v : Word} {waited : Bool}

/-- The values of a port A write to the command word that are commands. -/
theorem commandOf_of_value (h : (cmd, v) ∈ [(Command.load, 1#16), (.unload, 2#16)]) :
    commandOf .a .write commandAddr v = some cmd := by
  simp only [List.mem_cons, Prod.mk.injEq, List.not_mem_nil, or_false] at h
  obtain ⟨rfl, rfl⟩ | ⟨rfl, rfl⟩ := h <;> rfl

/-- The rows LOAD_COMMAND and UNLOAD_COMMAND are the completion of the command's write. -/
theorem exec_commandRow_of_cycle (hv : commandOf .a .write commandAddr v = some cmd) (hr : s.running = true)
    (hd : s.pins.pfailDue = false)
    (hc : s.cycle = some { req := .port .a, dir := .write, addr := commandAddr, data := v }) :
    exec cmd.row s =
      .next (({ s with mem := memWrite s.mem commandAddr v, cycle := none } : State).hostDone .a
        { req := .port .a, dir := .write, addr := commandAddr, data := v }) := by
  have hcarried : s.commandCarried cmd = true := by simp [State.commandCarried, hc, hv]
  have hexec : exec cmd.row s = .next (s.completeIf (s.commandCarried cmd)) := by cases cmd <;> rfl
  rw [hexec, State.completeIf_of_cycle hr hd hc hcarried, State.completeCycle, State.memCarried_of_write hc rfl]

/-- A host's write that is a command: port A is answered, but for PFAIL, and the command is taken (R141, R158). -/
theorem State.hostDone_of_command (hv : commandOf .a .write commandAddr v = some cmd) :
    s.hostDone .a { req := .port .a, dir := .write, addr := commandAddr, data := v } =
      (if s.part = .pfail then s else s.setPort .a { s.portA with access := none, driven := none }).takeCommand cmd
        (s.portA.access.any Access.waitedLoad) := by
  simp only [State.hostDone, hv, State.endAccess_none]
  rfl

/-- In LOADING, DRAINING and PFAIL, and when its write waited with cause LOAD, a command is BUSY. -/
theorem State.takeCommand_of_busy
    (h : s.part = .loading ∨ s.part = .draining ∨ s.part = .pfail ∨ waited = true) (cmd : Command) :
    s.takeCommand cmd waited = s.raise (.load 11 0) := by
  unfold State.takeCommand
  obtain h | h | h | h := h
  · rw [h]; exact ite_self _
  · rw [h]; exact ite_self _
  · rw [h]; exact ite_self _
  · exact if_pos h

theorem State.takeCommand_of_bypass (h : s.part = .bypass) (cmd : Command) :
    s.takeCommand cmd false = match cmd with
      | .load => s.startLoad .bypass
      | .unload => s := by
  unfold State.takeCommand
  rw [h]
  cases cmd <;> rfl

theorem State.takeCommand_of_active (h : s.part = .active) (cmd : Command) :
    s.takeCommand cmd false = s.enterDraining cmd := by
  unfold State.takeCommand
  rw [h]
  cases cmd <;> rfl

end

/-- Settles O49: the row answers port A and takes the command, by the part state. -/
theorem commandsActByThePartState : Obligations.CommandsActByThePartState := by
  intro s cmd v hmem hr hd hc run written stored waited
  have hv := commandOf_of_value hmem
  have hrow : run = exec cmd.row s := by cases cmd <;> rfl
  have hrun : run = .next (written.hostDone .a { req := .port .a, dir := .write, addr := commandAddr, data := v }) :=
    hrow.trans (exec_commandRow_of_cycle hv hr hd hc)
  have hwaited : s.portA.access.any Access.waitedLoad = true ↔ waited := by
    simp [waited, Option.any_eq_true]
  have hpfail (hp : s.part = .pfail) : run = .next (written.takeCommand cmd (s.portA.access.any Access.waitedLoad)) := by
    rw [hrun, State.hostDone_of_command hv, if_pos (show written.part = .pfail from hp)]
  have hanswered (hp : s.part ≠ .pfail) :
      run = .next (stored.takeCommand cmd (s.portA.access.any Access.waitedLoad)) := by
    rw [hrun, State.hostDone_of_command hv, if_neg (show written.part ≠ .pfail from hp)]
  have hfresh (hnot : ¬ waited) : s.portA.access.any Access.waitedLoad = false :=
    Bool.eq_false_iff.2 fun h => hnot (hwaited.1 h)
  refine ⟨fun hp => ?_, fun hbusy => ?_, fun hp hnot => ⟨?_, ?_⟩, fun hp hnot => ?_⟩
  · rw [hpfail hp, State.takeCommand_of_busy (s := written) (.inr (.inr (.inl hp)))]
  · have hp : s.part ≠ .pfail := by
      obtain h | h | ⟨h, -⟩ := hbusy
      · simp [h]
      · simp [h]
      · exact h
    rw [hanswered hp, State.takeCommand_of_busy (s := stored)]
    obtain h | h | ⟨-, h⟩ := hbusy
    · exact .inl h
    · exact .inr (.inl h)
    · exact .inr (.inr (.inr (hwaited.2 h)))
  · rintro rfl
    rw [hanswered (by simp [hp]), hfresh hnot, State.takeCommand_of_bypass (s := stored) hp]
    rfl
  · rintro rfl
    rw [hanswered (by simp [hp]), hfresh hnot, State.takeCommand_of_bypass (s := stored) hp]
  · rw [hanswered (by simp [hp]), hfresh hnot, State.takeCommand_of_active (s := stored) hp]

end Sys2Proof.Machine
end

section
/-! The release of RESET_N (O59). -/

namespace Sys2Proof.Machine

/-! ## The release (R140, R157, R165, R173) -/

section
variable {s : State}

/-- RESET_N_RELEASE in a reset that has taken effect. -/
theorem exec_resetNRelease_of_taken (hp : s.pins.powered = true) (ht : s.pins.resetTaken = true) (low : Bool) :
    exec (.resetNRelease low) s = .next (s.release low) := by
  simp [exec, execResetNRelease, State.takeDueReset_of_taken ht, hp, ht]

/-- A release takes the reset that is due first (R180, log 14). -/
theorem exec_resetNRelease_of_due (h : s.takeDueReset.pins.resetTaken = true) (low : Bool) :
    exec (.resetNRelease low) s = exec (.resetNRelease low) s.takeDueReset := by
  simp only [exec, execResetNRelease, State.takeDueReset_of_taken h]

/-- With no access recorded the part is released. -/
theorem State.release_of_none (ha : s.portA.recorded = none) (hb : s.portB.recorded = none) (low : Bool) :
    s.release low = s.released low := by
  simp [State.release, ha, hb, State.takeRecorded]

/-- The one access recorded arrives at the release. -/
theorem State.release_of_one {p : Port} {q : Recorded} (hq : (s.port p).recorded = some q)
    (hother : (s.port p.other).recorded = none) (low : Bool) :
    s.release low = (s.released low).arrive p q.dir q.addr q.value := by
  cases p
  · have ha : s.portA.recorded = some q := hq
    have hb : s.portB.recorded = none := hother
    simp [State.release, ha, hb, State.takeRecorded]
  · have ha : s.portA.recorded = none := hother
    have hb : s.portB.recorded = some q := hq
    simp [State.release, ha, hb, State.takeRecorded]

/-- Of two accesses recorded either may arrive first (log 4). -/
theorem State.release_of_two {qa qb : Recorded} (ha : s.portA.recorded = some qa) (hb : s.portB.recorded = some qb)
    (low : Bool) :
    let u : State := { s.released low with freeIndex := s.freeIndex + 1 }
    s.release low = (u.arrive .a qa.dir qa.addr qa.value).arrive .b qb.dir qb.addr qb.value
      ∨ s.release low = (u.arrive .b qb.dir qb.addr qb.value).arrive .a qa.dir qa.addr qa.value := by
  simp only [State.release, ha, hb, Option.isSome_some, Bool.and_self, if_true, State.takeRecorded]
  split
  · exact .inl rfl
  · exact .inr rfl

/-- A reset of which 160 periods are counted takes effect at a RESET_N_FALLING that names them. -/
theorem State.takeDueReset_of_counted (hp : s.pins.powered = true) (ht : s.pins.resetTaken = false)
    (hf : s.pins.refclk = true) (hn : 160 ≤ s.pins.resetLowPeriods) :
    s.takeDueReset = s.resetLow s.pins.resetLowPeriods ∧ s.takeDueReset = s.takeDueFall.resetTakes := by
  have hdue : s.resetDue = true := by simp [State.resetDue, State.running, hp, ht, hf, hn]
  obtain ⟨-, h⟩ | ⟨h, -⟩ := s.takeDueReset_cases
  · rw [hdue] at h; cases h
  · exact ⟨if_pos hdue, h⟩

end

/-- Settles O59: the release is `released` and the recorded accesses' arrivals, and takes the reset that is due before. -/
theorem releaseLeavesEveryBlockAtItsResetValue : Obligations.ReleaseLeavesEveryBlockAtItsResetValue := by
  intro s low hp
  refine ⟨?_, fun ht hf hn => ?_⟩
  · intro ht t
    have hexec := exec_resetNRelease_of_taken hp ht low
    have hblocks (k : Fin 12) : t.slots[k] = Slot.empty := State.reset_slot k
    have hports (p : Port) : t.port p =
        { access := none, latch := 0, strobes := (s.port p).strobes, driven := none, recorded := none } := by
      cases p <;> rfl
    refine ⟨?_, fun ha hb => ?_, fun p q hq hother => ?_, fun qa qb ha hb => ?_⟩
    · exact ⟨rfl, rfl, rfl, rfl, rfl, rfl, rfl, rfl, rfl, rfl, rfl, rfl, rfl, rfl, rfl, hblocks, rfl, rfl, rfl, rfl, rfl,
        rfl, rfl, rfl, rfl, rfl, rfl, hports⟩
    · rw [hexec, State.release_of_none ha hb]
      rfl
    · rw [hexec, State.release_of_one hq hother]
      rfl
    · rw [hexec]
      exact (State.release_of_two ha hb low).imp (congrArg _) (congrArg _)
  · obtain ⟨hfall, htakes⟩ := State.takeDueReset_of_counted hp ht hf hn
    have htaken : s.takeDueReset.pins.resetTaken = true := by rw [htakes]; rfl
    exact ⟨s.takeDueReset, congrArg _ hfall.symm, by rw [htakes]; rfl, htaken, exec_resetNRelease_of_due htaken low⟩

end Sys2Proof.Machine
end

section
/-! The ways out of PFAIL (O10). -/

namespace Sys2Proof.Machine

/-! ## The moves of the part's blocks -/

/-- Taking an access leaves the part state. -/
theorem State.TakesAccess.part_eq {s t : State} (h : s.TakesAccess t) : t.part = s.part := by
  obtain ⟨_, _, _, _, _, _, _, _, _, _, rfl⟩ := h
  rfl

theorem State.arrive_part (s : State) (p : Port) (d : Dir) (a : Addr) (v : Word) : (s.arrive p d a v).part = s.part := by
  obtain ⟨_, h⟩ := s.arrive_only p d a v
  exact (State.TakesAccess.part_eq h :)

theorem State.offer_part (s : State) (p : Port) (d : Dir) (a : Addr) (v : Word) : (s.offer p d a v).part = s.part := by
  obtain ⟨_, h⟩ := s.offer_only p d a v
  exact (State.TakesAccess.part_eq h :)

/-- A fall that is taken, or that finds the part in PFAIL, leaves it there (R157). -/
theorem State.takeFall_part (s : State) : s.takeFall.part = .pfail := by
  unfold State.takeFall
  split
  · assumption
  · obtain ⟨_, _, _, _, _, _, _, _, _, _, h⟩ := s.enterPfail_only
    rw [h]

/-- A release of RESET_N that no reset has preceded, and that finds none due, is no event. -/
theorem exec_resetNRelease_of_no_reset {s : State} (ht : s.pins.resetTaken = false)
    (hn : ¬ (s.pins.refclk = true ∧ 160 ≤ s.pins.resetLowPeriods)) (low : Bool) :
    exec (.resetNRelease low) s = .next s := by
  have hdue : s.resetDue = false := by
    simp only [not_and] at hn
    simp +contextual [State.resetDue, hn]
  have hkeeps : s.takeDueReset = s := if_neg (by simp [hdue])
  simp [exec, execResetNRelease, hkeeps, ht]

section
variable {s : State} (hp : s.part = .pfail)
include hp

/-- An operation that is made on a condition. -/
theorem State.part_ite_of_pfail {t : State} {c : Prop} [Decidable c] (h : c → t.part = .pfail) :
    (if c then t else s).part = .pfail := by
  split
  · exact h ‹_›
  · exact hp

theorem State.takeDueFall_of_pfail : s.takeDueFall = s := by
  simp [State.takeDueFall, State.takeFall, hp]

/-! ## The completions in PFAIL (R158 to R163) -/

/-- In PFAIL a command is BUSY (R142, R162). -/
theorem State.hostDone_part_of_pfail (p : Port) (c : Cycle) : (s.hostDone p c).part = .pfail := by
  unfold State.hostDone
  dsimp only
  rw [if_pos hp]
  split
  · rw [State.takeCommand_of_busy (.inr (.inr (.inl hp))), State.raise_part, hp]
  · exact hp

theorem State.completeCycle_part_of_pfail (c : Cycle) : (s.completeCycle c).part = .pfail := by
  unfold State.completeCycle
  dsimp only
  generalize ht : ({ s with mem := s.memCarried, cycle := none } : State) = t
  have htp : t.part = .pfail := by rw [← ht, ← hp]
  split
  · exact State.hostDone_part_of_pfail htp _ c
  · obtain ⟨_, _, _, _, _, _, _, _, _, _, _, _, h⟩ := t.commitWriteDone_only
    rw [h, ← htp]
  · rw [State.loaderDone, if_pos htp, htp]
  · obtain ⟨_, h⟩ := t.writerAdvance_only c.data
    rw [h, ← htp]
  · obtain ⟨_, _, _, h⟩ := t.diagDone_only c.data
    rw [h, ← htp]

theorem State.completeIf_part_of_pfail (atHand : Bool) : (s.completeIf atHand).part = .pfail := by
  refine State.part_ite_of_pfail hp fun _ => ?_
  unfold State.complete
  dsimp only
  rw [State.takeDueFall_of_pfail hp]
  split
  · exact State.completeCycle_part_of_pfail hp _
  · exact hp

/-! ## The lines -/

/-- A reset that takes effect leaves the part state until the release (R140). -/
theorem State.resetLow_part_of_pfail (n : Nat) : (s.resetLow n).part = .pfail := by
  unfold State.resetLow
  dsimp only
  rw [State.takeDueFall_of_pfail hp]
  split
  · exact hp
  · split
    · exact hp
    · exact State.part_ite_of_pfail hp fun _ => hp

theorem State.endShortPulse_part_of_pfail (low : Bool) : (s.endShortPulse low).part = .pfail :=
  State.part_ite_of_pfail (s := { s with pins := { s.pins with resetN := true, resetLowPeriods := 0, pfailN := !low } }) hp
    fun _ => State.takeFall_part _

theorem State.pfailFalls_part_of_pfail : s.pfailFalls.part = .pfail :=
  State.part_ite_of_pfail (s := { s with pins := { s.pins with pfailN := false } }) hp fun _ => State.takeFall_part _

/-! ## Every command -/

/-- Every command but a release of RESET_N and a loss of supply leaves the part in PFAIL. -/
theorem exec_part_of_pfail {c : Instr} (hrelease : ∀ b, c ≠ .resetNRelease b) (hloss : c ≠ .lossOfSupply) :
    ∃ t, exec c s = .next t ∧ t.part = .pfail := by
  cases c with
  | accessArrival p oe we a v =>
    refine ⟨_, rfl, ?_⟩
    split
    · rw [State.offer_part, hp]
    · split
      · rw [State.offer_part, hp]
      · exact State.part_ite_of_pfail hp fun _ => by rw [State.liftStrobes_part, hp]
  | alertMaskWrite v | acknowledge v | alertHoldoffWrite v | faultConsumerWrite v | timeLowRead p =>
    exact ⟨_, rfl, by rw [State.offer_part, hp]⟩
  | statusBlockWriteRefused p w v =>
    refine ⟨_, rfl, ?_⟩
    split
    · exact hp
    · rw [State.offer_part, hp]
  | loadCommand | unloadCommand | startUpReadsQualify | memoryCycleCompletion | commitCompletion | scanEnd | faultRecordEnd
  | writeBackEnd | shadowReadEnd | loadSuccess | loadFailure | unloadEnd =>
    exact ⟨_, rfl, State.completeIf_part_of_pfail hp _⟩
  | resetNFalling n => exact ⟨_, rfl, State.resetLow_part_of_pfail hp n⟩
  | shortResetPulseEnd low =>
    exact ⟨_, rfl, State.part_ite_of_pfail hp fun _ => State.endShortPulse_part_of_pfail hp low⟩
  | pfailNFalling => exact ⟨_, rfl, State.part_ite_of_pfail hp fun _ => State.pfailFalls_part_of_pfail hp⟩
  | holdTimerExpiry r =>
    obtain ⟨_, _, _, h⟩ := s.expireHold_only r
    exact ⟨_, rfl, State.part_ite_of_pfail hp fun _ => by rw [h, ← hp]⟩
  | deadlineExpiry r =>
    obtain ⟨_, _, _, _, h⟩ := s.expireDeadline_only r
    exact ⟨_, rfl, State.part_ite_of_pfail hp fun _ => by rw [h, ← hp]⟩
  | waitLimitExpiry p =>
    refine ⟨_, rfl, State.part_ite_of_pfail hp fun _ => ?_⟩
    split
    · split
      · rename_i a _ _ c _
        obtain ⟨_, _, _, _, _, h⟩ := s.expireWait_only p a c
        rw [h, ← hp]
      · exact hp
    · exact hp
  | holdoffExpiry => exact ⟨_, rfl, State.part_ite_of_pfail hp fun _ => hp⟩
  | arbiterGrant =>
    obtain ⟨_, _, _, _, h⟩ := s.grant_only
    exact ⟨_, rfl, State.part_ite_of_pfail hp fun _ => by rw [h, ← hp]⟩
  | commitStart =>
    obtain ⟨_, _, _, _, _, _, _, _, _, _, h⟩ := s.startSelected_only
    exact ⟨_, rfl, State.part_ite_of_pfail hp fun _ => by rw [h, ← hp]⟩
  | scanStart =>
    obtain ⟨_, _, h⟩ := s.beginScan_only
    exact ⟨_, rfl, State.part_ite_of_pfail hp fun _ => by rw [h, ← hp]⟩
  | drainEnd =>
    refine ⟨_, rfl, State.part_ite_of_pfail hp fun h => ?_⟩
    obtain ⟨hdraining, -⟩ := s.drainEnds_iff.1 (Bool.and_eq_true_iff.1 h).2
    simp [hp] at hdraining
  | resetNRelease low => exact absurd rfl (hrelease low)
  | lossOfSupply => exact absurd rfl hloss

end

/-- Settles O10: every other command leaves the part in PFAIL, and a release with no reset taken or due is no event. -/
theorem pfailIsLeftOnlyThroughReset : Obligations.PfailIsLeftOnlyThroughReset := by
  intro c s t hp ht hleft
  by_cases hrelease : ∃ b, c = .resetNRelease b
  · obtain ⟨b, rfl⟩ := hrelease
    refine .inl ⟨b, rfl, ?_⟩
    by_contra hnone
    obtain ⟨hnot, hcount⟩ := not_or.1 hnone
    rw [exec_resetNRelease_of_no_reset (by simpa using hnot) hcount] at ht
    obtain rfl := Host.Outcome.next.inj ht
    exact hleft hp
  · refine .inr (by_contra fun hloss => hleft ?_)
    obtain ⟨u, hu, hpart⟩ := exec_part_of_pfail hp (not_exists.1 hrelease) hloss
    obtain rfl : u = t := Host.Outcome.next.inj (hu.symm.trans ht)
    exact hpart

end Sys2Proof.Machine
end

section
/-! Validation of the shadow (O53). -/

namespace Sys2Proof.Machine

/-! ## What the checks read (Tables 8-6 to 8-8) -/

/-- An address of two words, in numbers. -/
theorem splitAddr_toNat (low high : Word) :
    (high.extractLsb' 0 2 ++ low).toNat = low.toNat + 65536 * (high.toNat % 4) := by
  have hlow := low.isLt
  rw [splitAddr_eq, BitVec.toNat_ofNat]
  omega

theorem entryBase_toNat (ws : List Word) (i : Fin 64) :
    (entryBase ws i).toNat = (entryWord ws i 1).toNat + 65536 * ((entryWord ws i 2).toNat % 4) :=
  splitAddr_toNat _ _

theorem parseCondition_addr_toNat (ws : List Word) (c : Nat) :
    (parseCondition ws c).addr.toNat = (condWord ws c 0).toNat + 65536 * ((condWord ws c 1).toNat % 4) :=
  splitAddr_toNat _ _

theorem parseEntry_condFirst (ws : List Word) (i : Fin 64) :
    (parseEntry ws i).condFirst = (entryWord ws i 6).toNat / 256 := highByte_toNat _

theorem parseEntry_condCount (ws : List Word) (i : Fin 64) :
    (parseEntry ws i).condCount = (entryWord ws i 6).toNat % 256 := lowByte_toNat _

/-- The writer code, in numbers. -/
theorem writerCode_toNat (w : Word) : (w.extractLsb' 1 2).toNat = w.toNat / 2 % 4 := by
  rw [BitVec.extractLsb'_toNat, Nat.shiftRight_eq_div_pow]

/-- An entry names a port by the codes 1 and 2 (Table 8-7). -/
theorem entryWriter_isNone_iff (ws : List Word) (i : Fin 64) :
    (entryWriter ws i).isNone = true ↔
      ¬ ((entryWord ws i 0).toNat / 2 % 4 = 1 ∨ (entryWord ws i 0).toNat / 2 % 4 = 2) := by
  rw [← writerCode_toNat]
  have hcode (n : BitVec 2) : (entryWord ws i 0).extractLsb' 1 2 = n ↔ ((entryWord ws i 0).extractLsb' 1 2).toNat = n.toNat :=
    BitVec.toNat_inj.symm
  simp only [entryWriter, hcode]
  generalize ((entryWord ws i 0).extractLsb' 1 2).toNat = code
  by_cases ha : code = 1
  · simp [ha]
  · by_cases hb : code = 2 <;> simp [ha, hb]

/-! ## The checks' conditions (Table 8-5) -/

theorem lengthFails_iff (ws : List Word) (i : Fin 64) :
    lengthFails ws i = true ↔ ¬ (2 ≤ (entryWord ws i 3).toNat ∧ (entryWord ws i 3).toNat ≤ 256) := by
  rw [lengthFails, Bool.or_eq_true, decide_eq_true_eq, decide_eq_true_eq, entryLen]
  omega

theorem placeFails_iff (ws : List Word) (i : Fin 64) :
    placeFails ws i = true ↔
      0x3F000 ≤ (entryWord ws i 1).toNat + 65536 * ((entryWord ws i 2).toNat % 4) + (entryWord ws i 3).toNat - 1 := by
  rw [placeFails, entryBase_toNat, decide_eq_true_eq]
  rfl

/-- Two entries share a word unless the one ends before the other begins. -/
theorem sharesWord_iff (ws : List Word) (i j : Fin 64) :
    sharesWord ws i j = true ↔
      ¬ ((entryBase ws i).toNat + entryLen ws i ≤ (entryBase ws j).toNat
        ∨ (entryBase ws j).toNat + entryLen ws j ≤ (entryBase ws i).toNat) := by
  simp only [sharesWord, Bool.and_eq_true, decide_eq_true_eq]
  omega

theorem overlapFails_iff (ws : List Word) (j : Fin 64) :
    overlapFails ws j = true ↔
      ∃ i : Fin 64, i < j ∧ entryEnabled ws i = true
        ∧ ¬ ((entryBase ws i).toNat + entryLen ws i ≤ (entryBase ws j).toNat
          ∨ (entryBase ws j).toNat + entryLen ws j ≤ (entryBase ws i).toNat) := by
  simp only [overlapFails, enabledEntries, List.any_filter, List.any_eq_true, List.mem_finRange, true_and,
    Bool.and_eq_true, decide_eq_true_eq, sharesWord_iff]
  exact exists_congr fun i => and_left_comm

theorem condListFails_iff (ws : List Word) (i : Fin 64) :
    condListFails ws i = true ↔
      16 < (entryWord ws i 6).toNat % 256
        ∨ 256 < (entryWord ws i 6).toNat / 256 + (entryWord ws i 6).toNat % 256 := by
  simp only [condListFails, Bool.or_eq_true, decide_eq_true_eq, parseEntry_condFirst, parseEntry_condCount]

/-! ## A check that reports: the head of the list of its failures -/

section
variable (ws : List Word) (code : Nat)

theorem headerCheck_eq_head? {fails fails' : Bool} (h : fails = fails') :
    headerCheck code fails = (if fails' then [({ code := code, index := 0 } : LoadResult)] else []).head? := by
  subst h
  cases fails <;> rfl

/-- A check over the enabled entries, in ascending index. -/
theorem firstFailing_eq_head? {fails : Fin 64 → Bool} {P : Fin 64 → Prop} [DecidablePred P]
    (h : ∀ i, fails i = true ↔ P i) :
    firstFailing ws code fails =
      (((List.finRange 64).filter fun i => (entryWord ws i 0).getLsbD 0 && decide (P i)).map fun i =>
        ({ code := code, index := i.val } : LoadResult)).head? := by
  obtain rfl : fails = fun i => decide (P i) := funext fun i => Bool.eq_iff_iff.2 (by simpa using h i)
  rw [firstFailing, enabledEntries, List.find?_filter, List.head?_map, List.head?_filter]
  simp only [Bool.decide_and, Bool.decide_eq_true]
  rfl

theorem flatMap_filter_eq {α β : Type} (l : List α) (p : α → Bool) (f : α → List β) :
    (l.filter p).flatMap f = l.flatMap fun x => if p x then f x else [] := by
  induction l with
  | nil => rfl
  | cons x rest ih => cases h : p x <;> simp [h, ih]

/-- The check of the condition addresses, in the order of the entries' lists. -/
theorem condAddrCheck_eq_head? :
    condAddrCheck ws =
      ((((List.finRange 64).flatMap fun i =>
          if (entryWord ws i 0).getLsbD 0 then
            (List.range ((entryWord ws i 6).toNat % 256)).map ((entryWord ws i 6).toNat / 256 + ·)
          else []).filter fun c =>
        0x3F000 ≤ (condWord ws c 0).toNat + 65536 * ((condWord ws c 1).toNat % 4)).map fun c =>
          ({ code := 10, index := c } : LoadResult)).head? := by
  rw [condAddrCheck, enabledEntries, flatMap_filter_eq, List.head?_map, List.head?_filter]
  simp only [parseEntry_condFirst, parseEntry_condCount, parseCondition_addr_toNat]
  rfl

/-! ## A check that passes -/

theorem headerCheck_eq_none_iff {fails : Bool} : headerCheck code fails = none ↔ ¬ fails = true := by
  cases fails <;> simp [headerCheck]

theorem firstFailing_eq_none_iff {fails : Fin 64 → Bool} :
    firstFailing ws code fails = none ↔ ∀ i, entryEnabled ws i = true → ¬ fails i = true := by
  simp [firstFailing, enabledEntries]

/-- Every condition that an enabled entry names has an address below 3F000H. -/
theorem condAddrCheck_eq_none_iff :
    condAddrCheck ws = none ↔
      ∀ i, entryEnabled ws i = true → ∀ c, (entryWord ws i 6).toNat / 256 ≤ c →
        c < (entryWord ws i 6).toNat / 256 + (entryWord ws i 6).toNat % 256 →
        (condWord ws c 0).toNat + 65536 * ((condWord ws c 1).toNat % 4) < 0x3F000 := by
  simp only [condAddrCheck, enabledEntries, Option.map_eq_none_iff, List.find?_eq_none, List.mem_flatMap, List.mem_filter,
    List.mem_finRange, true_and, List.mem_map, List.mem_range, parseEntry_condFirst, parseEntry_condCount,
    parseCondition_addr_toNat, decide_eq_true_eq, not_le]
  refine ⟨fun h i hi c hle hlt => h c ⟨i, hi, c - _, by omega, Nat.add_sub_cancel' hle⟩, ?_⟩
  rintro h c ⟨i, hi, k, hk, rfl⟩
  exact h i hi _ (by omega) (by omega)

end

/-- Settles O53: validation reports the head of the failures of its checks in a row, and passes when every check does. -/
theorem validationPassesSoundTables : Obligations.ValidationPassesSoundTables := by
  intro ws xored enabled base len named apart first count place header entries conds
  have hform : formCheck ws = xored := formCheck_eq ws
  have hmargin : headerWord ws 4 = 0#16 ∨ 8 < (headerWord ws 4).toNat ↔
      ¬ (1 ≤ (headerWord ws 4).toNat ∧ (headerWord ws 4).toNat ≤ 8) := by
    rw [show headerWord ws 4 = 0#16 ↔ (headerWord ws 4).toNat = 0 from BitVec.toNat_inj.symm]
    omega
  have hbase (i : Fin 64) : (entryBase ws i).toNat = base i := entryBase_toNat ws i
  have hoverlap (i : Fin 64) : overlapFails ws i = true ↔ ∃ j : Fin 64, j < i ∧ enabled j = true ∧ ¬ apart i j := by
    rw [overlapFails_iff]
    simp only [hbase]
    rfl
  refine ⟨?_, ?_⟩
  · simp only [validate, List.head?_append, Option.or_assoc]
    refine congrArg₂ _ (headerCheck_eq_head? 1 rfl) <| congrArg₂ _ (headerCheck_eq_head? 2 ?_) <|
      congrArg₂ _ (headerCheck_eq_head? 3 rfl) <| congrArg₂ _ (headerCheck_eq_head? 4 ?_) <|
      congrArg₂ _ (firstFailing_eq_head? ws 5 (entryWriter_isNone_iff ws)) <|
      congrArg₂ _ (firstFailing_eq_head? ws 6 (lengthFails_iff ws)) <|
      congrArg₂ _ (firstFailing_eq_head? ws 7 (placeFails_iff ws)) <|
      congrArg₂ _ (firstFailing_eq_head? ws 8 hoverlap) <|
      congrArg₂ _ (firstFailing_eq_head? ws 9 (condListFails_iff ws)) (condAddrCheck_eq_head? ws)
    · rw [hform]
      exact decide_eq_decide.2 ne_comm
    · exact decide_eq_decide.2 hmargin
  · simp only [validate, Option.or_eq_none_iff, headerCheck_eq_none_iff, firstFailing_eq_none_iff,
      condAddrCheck_eq_none_iff, entryWriter_isNone_iff, lengthFails_iff, placeFails_iff, hoverlap, condListFails_iff, hform,
      decide_eq_true_eq, hmargin, not_not]
    simp only [ne_eq, not_not, not_or, not_le, not_lt, not_exists, not_and]
    constructor
    · rintro ⟨hformat, hcheck, hlimit, ⟨hlow, hhigh⟩, hport, hlen, hplace, hapart, hlist, haddr⟩
      exact ⟨hformat, hcheck.symm, hlimit, hlow, hhigh, fun i hi => ⟨hport i hi, (hlen i hi).1, (hlen i hi).2, hplace i hi,
        hapart i hi, (hlist i hi).1, (hlist i hi).2, haddr i hi⟩⟩
    · rintro ⟨hformat, hcheck, hlimit, hlow, hhigh, hentry⟩
      refine ⟨hformat, hcheck.symm, hlimit, ⟨hlow, hhigh⟩, fun i hi => ?_, fun i hi => ?_, fun i hi => ?_, fun i hi => ?_,
        fun i hi => ?_, fun i hi => ?_⟩
      all_goals obtain ⟨hport, hshort, hlong, hplace, hapart, hcount, hpool, haddr⟩ := hentry i hi
      exacts [hport, ⟨hshort, hlong⟩, hplace, hapart, ⟨hcount, hpool⟩, haddr]

end Sys2Proof.Machine
end

section
/-! The claims at the arbiter: the internal request and the ports' claims (O38). -/

namespace Sys2Proof.Machine

/-! ## The requests, each as one equation (R76, R101, R123, R143 to R149, R163) -/

/-- The cycle an access of a requester asks for: a read takes the word memory holds (R176). -/
def State.cycleOf (s : State) (req : Requester) : Dir × Addr × Word → Cycle
  | (dir, addr, value) =>
    { req := req, dir := dir, addr := addr
      data := match dir with
        | .read => memRead s.mem addr
        | .write => value }

@[simp] theorem State.cycleOf_req (s : State) (req : Requester) (x : Dir × Addr × Word) : (s.cycleOf req x).req = req := rfl

section
variable {s : State}

@[simp] theorem State.claim_internal (s : State) : s.claim .internal = s.internalRequest := rfl

theorem State.loaderRequest_eq (hp : s.part ≠ .pfail) : s.loaderRequest = s.loaderAccess.map (s.cycleOf .loader) := by
  unfold State.loaderRequest
  rw [if_neg hp]
  rcases s.loaderAccess with _ | ⟨d, a, w⟩
  · rfl
  · cases d <;> rfl

/-- With no access to make, or in PFAIL, the Loader asks for nothing. -/
theorem State.loaderRequest_eq_none (h : s.part = .pfail ∨ s.ldr.work = .idle) : s.loaderRequest = none := by
  unfold State.loaderRequest
  obtain h | h := h
  · rw [if_pos h]
  · simp [State.loaderAccess, h]

theorem State.loaderAccess_isSome (h : s.ldr.work ≠ .idle) : s.loaderAccess.isSome = true := by
  unfold State.loaderAccess
  split
  · contradiction
  all_goals rfl

theorem State.writerRequest_eq (s : State) :
    s.writerRequest = (s.log.inHand.map InHand.access).map (s.cycleOf .writer) := by
  unfold State.writerRequest
  rcases s.log.inHand.map InHand.access with _ | ⟨d, a, w⟩
  · rfl
  · cases d <;> rfl

/-- In ACTIVE and DRAINING the Diagnosis Engine asks for the read of the condition it has requested. -/
theorem State.diagRequest_of_live (h : s.part.regionsLive = true) :
    s.diagRequest =
      match s.scan with
      | some c =>
        if c.step = .requested then
          some
            { req := .diag, dir := .read, addr := (s.condition c.position).addr
              data := memRead s.mem (s.condition c.position).addr }
        else none
      | none => none := by
  unfold State.diagRequest
  cases s.scan with
  | none => rfl
  | some c => simp only [h, and_true]

theorem State.diagRequest_of_not_live (h : s.part.regionsLive = false) : s.diagRequest = none := by
  unfold State.diagRequest
  split
  · exact if_neg (by simp [h])
  · rfl

/-! ## The fixed priority (R175) -/

theorem State.internalRequest_of_commit (h : s.commit.isSome = true) : s.internalRequest = s.commitRequest := by
  obtain ⟨c, hc⟩ := Option.isSome_iff_exists.1 h
  simp [State.internalRequest, State.commitRequest, hc]

/-- With no commit in progress the Loader, the Record Writer and the Diagnosis Engine follow in this order. -/
theorem State.internalRequest_of_no_commit (h : s.commit = none) :
    s.internalRequest = s.loaderRequest.or (s.writerRequest.or s.diagRequest) := by
  simp [State.internalRequest, State.commitRequest, h]

theorem State.internalRequest_of_loader {x : Dir × Addr × Word} (hc : s.commit = none) (hp : s.part ≠ .pfail)
    (hx : s.loaderAccess = some x) : s.internalRequest = some (s.cycleOf .loader x) := by
  rw [State.internalRequest_of_no_commit hc, State.loaderRequest_eq hp, hx]
  rfl

theorem State.internalRequest_of_no_loader (hc : s.commit = none) (h : s.part = .pfail ∨ s.ldr.work = .idle) :
    s.internalRequest = s.writerRequest.or s.diagRequest := by
  rw [State.internalRequest_of_no_commit hc, State.loaderRequest_eq_none h, Option.none_or]

theorem State.internalRequest_of_writer (hc : s.commit = none) (h : s.part = .pfail ∨ s.ldr.work = .idle)
    (hw : s.log.inHand.isSome = true) :
    s.internalRequest = (s.log.inHand.map InHand.access).map (s.cycleOf .writer) := by
  obtain ⟨i, hi⟩ := Option.isSome_iff_exists.1 hw
  rw [State.internalRequest_of_no_loader hc h, State.writerRequest_eq, hi]
  rfl

theorem State.internalRequest_of_diag (hc : s.commit = none) (h : s.part = .pfail ∨ s.ldr.work = .idle)
    (hw : s.log.inHand = none) : s.internalRequest = s.diagRequest := by
  rw [State.internalRequest_of_no_loader hc h, State.writerRequest_eq, hw]
  rfl

/-! ## The ports' claims (R163, R174, R177, R178) -/

theorem State.portRequest_of_no_claim {p : Port} (h : s.portClaims p = false) : s.portRequest p = none :=
  if_neg (by simp [h])

theorem State.portRequest_of_claim {p : Port} {a : Access} (h : s.portClaims p = true) (ha : (s.port p).access = some a) :
    s.portRequest p = some (s.cycleOf (.port p) (a.dir, a.addr, a.value)) := by
  rw [State.portRequest, if_pos h, ha]
  rfl

theorem State.portClaims_of_pfail (h : s.part = .pfail) (p : Port) : s.portClaims p = false := by
  unfold State.portClaims
  split
  · simp [h]
  · rfl

/-- An access that is GRANTED, or waits with another cause than ARBITER, is no claim. -/
theorem State.portClaims_of_not_held {p : Port} (h : ∀ a, (s.port p).access = some a → a.phase ≠ .held .arbiter) :
    s.portClaims p = false := by
  unfold State.portClaims
  split
  · simp [h _ ‹_›]
  · rfl

/-- The Record Writer's access is being carried. -/
theorem State.writerCarried_iff (s : State) : s.writerCarried = true ↔ s.cycle.map Cycle.req = some .writer := by
  unfold State.writerCarried
  cases s.cycle <;> simp

/-- The item in hand holds a port A write back when it is a write-back, its first read granted, of that very word (R177). -/
theorem State.holdsBack_iff (s : State) (addr : Addr) :
    (s.log.inHand.any fun h => h.holdsBack s.writerCarried addr) = true ↔
      ∃ r n done q k, s.log.inHand = some (.writeBack r n done q k)
        ∧ (1 ≤ done ∨ s.cycle.map Cycle.req = some .writer) ∧ (addr = periodAddr r ∨ addr = checkAddr) := by
  rw [← s.writerCarried_iff]
  rcases s.log.inHand with _ | i
  · simp
  · cases i with
    | record f index done => simp [InHand.holdsBack]
    | torn base gen => simp [InHand.holdsBack]
    | writeBack r n done q k =>
      simp only [Option.any_some, InHand.holdsBack, Bool.and_eq_true, Bool.or_eq_true, decide_eq_true_eq]
      constructor
      · rintro ⟨hbegun, haddr⟩
        exact ⟨r, n, done, q, k, rfl, hbegun.symm, haddr⟩
      · rintro ⟨r', n', done', q', k', hi, hbegun, haddr⟩
        cases hi
        exact ⟨hbegun.symm, haddr⟩

/-- An access that waits with cause ARBITER claims the memory port unless it is held back. -/
theorem State.portClaims_iff {p : Port} {a : Access} (hp : s.part ≠ .pfail) (ha : (s.port p).access = some a)
    (hheld : a.phase = .held .arbiter) :
    s.portClaims p = true ↔
      ¬ (p = .a ∧ a.dir = .write ∧ (s.log.inHand.any fun h => h.holdsBack s.writerCarried a.addr) = true) := by
  simp [State.portClaims, ha, hheld, hp, imp_iff_not_or, or_assoc]

end

/-- Settles O38: the internal request by the fixed priority, a port's by what holds its access. -/
theorem claimsFollowTheFixedPriority : Obligations.ClaimsFollowTheFixedPriority := by
  intro s writer
  refine ⟨fun hc => ?_, fun hc hp hwork => ?_, fun hc hp => ?_, fun hc hl hw => ?_, fun hc hw hp => ?_, fun hc hp hl hw => ?_,
    fun hc hp hl hw => ?_, ⟨rfl, rfl⟩, fun hp => ?_, fun p hnot => ?_, fun p a hp ha hheld => ?_⟩
  · have hclaim : s.claim .internal = s.commitRequest := State.internalRequest_of_commit hc
    refine ⟨hclaim, ?_⟩
    obtain ⟨c, hcm⟩ := Option.isSome_iff_exists.1 hc
    rw [hclaim, State.commitRequest, hcm]
    rfl
  · obtain ⟨x, hx⟩ := Option.isSome_iff_exists.1 (State.loaderAccess_isSome hwork)
    rw [State.claim_internal, State.internalRequest_of_loader hc hp hx]
    rfl
  · intro ws reads clears
    have asksRead {a : Addr} (h : s.loaderAccess = some (.read, a, 0#16)) : s.claim .internal = reads a :=
      State.internalRequest_of_loader hc hp h
    have asksClear (h : s.loaderAccess = some (.write, commandAddr, 0#16)) : s.claim .internal = clears :=
      State.internalRequest_of_loader hc hp h
    refine ⟨fun h => asksRead (by rw [State.loaderAccess, h]; rfl), fun _ h => asksRead (by rw [State.loaderAccess, h]; rfl),
      fun h => asksRead (by rw [State.loaderAccess, h]; rfl), fun i _ _ h => ?_,
      fun _ h => asksClear (by rw [State.loaderAccess, h]), fun _ h => asksClear (by rw [State.loaderAccess, h]),
      fun h => asksClear (by rw [State.loaderAccess, h])⟩
    rw [← entryBase_eq]
    exact asksRead (by rw [State.loaderAccess, h]; rfl)
  · have hclaim : s.claim .internal = writer.map (s.cycleOf .writer) := State.internalRequest_of_writer hc hl hw
    refine ⟨?_, hclaim⟩
    obtain ⟨i, hi⟩ := Option.isSome_iff_exists.1 hw
    rw [hclaim, show writer = some i.access by simp only [writer, hi, Option.map_some]]
    rfl
  · rw [State.claim_internal, State.internalRequest_of_diag hc (.inl hp) hw,
      State.diagRequest_of_not_live (by rw [hp]; rfl)]
  · rw [State.claim_internal, State.internalRequest_of_diag hc (.inr hl) hw]
    exact State.diagRequest_of_live (by obtain hp | hp := hp <;> rw [hp] <;> rfl)
  · rw [State.claim_internal, State.internalRequest_of_diag hc (.inr hl) hw]
    exact State.diagRequest_of_not_live (by obtain hp | hp := hp <;> rw [hp] <;> rfl)
  · have none_of (p : Port) : s.portRequest p = none := State.portRequest_of_no_claim (State.portClaims_of_pfail hp p)
    exact ⟨none_of .a, none_of .b⟩
  · exact State.portRequest_of_no_claim (State.portClaims_of_not_held hnot)
  · intro heldBack
    have hclaims : s.portClaims p = true ↔ ¬ heldBack := by
      rw [State.portClaims_iff hp ha hheld, s.holdsBack_iff]
      rfl
    exact ⟨fun h => State.portRequest_of_no_claim (Bool.eq_false_iff.2 fun hclaim => hclaims.1 hclaim h),
      fun h => State.portRequest_of_claim (hclaims.2 h) ha⟩

end Sys2Proof.Machine
end

section
/-! Arrivals in PFAIL (O15). -/

namespace Sys2Proof.Machine

/-- The writes that are commands: port A's of 0001H or 0002H to the command word (R141). -/
theorem commandOf_isSome_iff (p : Port) (d : Dir) (a : Addr) (v : Word) :
    (commandOf p d a v).isSome = true ↔ p = .a ∧ d = .write ∧ a = commandAddr ∧ (v = 1#16 ∨ v = 2#16) := by
  refine ⟨fun h => by_contra fun hnot => ?_, ?_⟩
  · rw [commandOf_eq_none hnot] at h
    cases h
  · rintro ⟨rfl, rfl, rfl, rfl | rfl⟩ <;> rfl

theorem dirOf_eq_write_iff (we : Bool) : dirOf we = .write ↔ we = true := by cases we <;> simp [dirOf]

theorem endedValue_dirOf (we : Bool) : endedValue (dirOf we) = if we then none else some 0xFFFF#16 := by cases we <;> rfl

section
variable {s : State} (hp : s.part = .pfail)
include hp

/-- In PFAIL every fault is lost (R133). -/
theorem State.logs_of_pfail : s.logs = false := by simp [State.logs, hp]

/-- In PFAIL causes become pending with ALERT_N released (R127). -/
theorem State.setPending_of_pfail (causes : BitVec 8) :
    s.setPending causes = { s with alert := { s.alert with pending := s.alert.pending ||| causes, asserted := false } } := by
  rw [State.setPending_eq, lineFor, hp]
  rfl

/-- A BUSY fault detected in PFAIL takes a number, and LOAD and OVERFLOW become pending (R133, R142). -/
theorem State.raiseBusy_of_pfail :
    s.raiseBusy =
      { s with
        log := { s.log with nextSeq := s.log.nextSeq + 1 }
        alert := { s.alert with pending := s.alert.pending ||| 0xC0#8, asserted := false } } := by
  rw [State.raiseBusy, State.raise_of_lost (State.logs_of_pfail hp), State.setPending_of_pfail (by exact hp)]
  rfl

theorem State.dispatch_of_pfail (p : Port) (a : Access) : s.dispatch p a = s.endInPfail p a := if_pos hp

/-- An access that PFAIL ends at its arrival, and is a BUSY fault too when it is a command (R158, R162). -/
theorem State.register_endInPfail (p : Port) (d : Dir) (addr : Addr) (v : Word) :
    ((s.strobe p).register p (s.newAccess d addr v)).endInPfail p (s.newAccess d addr v) =
      let t := s.answered p (endedValue d)
      if p = .a ∧ d = .write ∧ addr = commandAddr ∧ (v = 1#16 ∨ v = 2#16) then
        { t with
          log := { s.log with nextSeq := s.log.nextSeq + 1 }
          alert := { s.alert with pending := s.alert.pending ||| 0xC0#8, asserted := false } }
      else t := by
  have hanswered : (s.answered p (endedValue d)).part = .pfail := (s.setPort_part p _).trans hp
  have hlog : (s.answered p (endedValue d)).log = s.log := s.setPort_log p _
  have halert : (s.answered p (endedValue d)).alert = s.alert := s.setPort_alert p _
  simp only [State.endInPfail, State.register_endAccess, State.newAccess_dir, State.newAccess_addr, State.newAccess_value,
    commandOf_isSome_iff, State.raiseBusy_of_pfail hanswered, hlog, halert]

end

/-- Settles O15: an arrival in PFAIL is `endInPfail` of the access, whose fault no block logs. -/
theorem pfailEndsEveryArrival : Obligations.PfailEndsEveryArrival := by
  intro s p oe we addr v hready hp strobe
  rw [exec_accessArrival_of_ready hready strobe, State.dispatch_of_pfail (by simpa using hp),
    State.register_endInPfail hp, endedValue_dirOf]
  simp only [dirOf_eq_write_iff]
  rfl

end Sys2Proof.Machine
end

section
/-! The part without its supply (O60). -/

namespace Sys2Proof.Machine

/-! ## The loss (R164, log 5) -/

/-- The supply fails with nothing written, or with the carried write made. -/
theorem State.loseSupply_cases (s : State) :
    ∃ mem n, s.loseSupply = ({ s with freeIndex := n } : State).unpowered mem
      ∧ (mem = s.mem ∨ ∃ c, s.cycle = some c ∧ c.dir = .write ∧ mem = memWrite s.mem c.addr c.data) := by
  unfold State.loseSupply
  split
  · rename_i hcarried
    obtain ⟨c, hc, hw⟩ : ∃ c, s.cycle = some c ∧ c.dir = .write := by
      simpa [State.writeCarried, Option.any_eq_true] using hcarried
    dsimp only
    split
    · exact ⟨s.memCarried, s.freeIndex + 1, rfl, .inr ⟨c, hc, hw, State.memCarried_of_write hc hw⟩⟩
    · exact ⟨s.mem, s.freeIndex + 1, rfl, .inl rfl⟩
  · exact ⟨s.mem, s.freeIndex, rfl, .inl rfl⟩

theorem exec_lossOfSupply_of_powered {s : State} (h : s.pins.powered = true) :
    exec .lossOfSupply s = .next s.loseSupply := by
  simp [exec, execLossOfSupply, h]

/-! ## Commands that take a part that takes events (log 1) -/

section
variable {s : State} (hr : s.running = false)
include hr

theorem State.completeIf_of_not_running (atHand : Bool) : s.completeIf atHand = s := by simp [State.completeIf, hr]

theorem State.takeDueReset_of_not_running : s.takeDueReset = s := by simp [State.takeDueReset, State.resetDue, hr]

/-- In a reset or without the supply no timer expires. -/
theorem State.timers_not_due_of_not_running :
    (∀ r, s.holdDue r = false) ∧ (∀ r, s.deadlineDue r = false) ∧ (∀ p, s.waitDue p = false) ∧ s.holdoffDue = false := by
  simp [Bool.eq_false_iff, State.holdDue_iff, State.deadlineDue_iff, State.waitDue_iff, State.holdoffDue_iff, hr]

end

/-! ## Without the supply (log 18) -/

section
variable {s : State} (hpowered : s.pins.powered = false)
include hpowered

theorem State.running_of_unpowered : s.running = false := by simp [State.running, hpowered]

theorem State.offer_of_unpowered (p : Port) (d : Dir) (a : Addr) (v : Word) : s.offer p d a v = s := if_pos (.inl hpowered)

/-- A fall of RESET_N with fewer than 160 periods counted is not even timed. -/
theorem State.resetLow_of_unpowered {n : Nat} (hn : n < 160) (hcount : s.pins.resetLowPeriods < 160) :
    s.resetLow n = s := by
  have hshort : s.pins.lowPeriods n < 160 := by
    unfold Pins.lowPeriods
    split <;> omega
  simp [State.resetLow, hpowered, not_le.2 hshort]

/-- Without the supply, and with fewer than 160 periods of RESET_N counted, no command but a reset of 160 periods changes
anything. -/
theorem exec_of_unpowered (hcount : s.pins.resetLowPeriods < 160) {c : Instr} (hc : ∀ n, c = .resetNFalling n → n < 160) :
    exec c s = .next s := by
  have hr := State.running_of_unpowered hpowered
  have hoffer := State.offer_of_unpowered hpowered
  obtain ⟨hhold, hdeadline, hwait, hholdoff⟩ := State.timers_not_due_of_not_running hr
  cases c with
  | accessArrival p oe we a v => simp [exec, execAccessArrival, hoffer, hpowered]
  | alertMaskWrite v | acknowledge v | alertHoldoffWrite v | faultConsumerWrite v | timeLowRead p =>
    exact congrArg _ (hoffer ..)
  | statusBlockWriteRefused p w v => simp [exec, execStatusBlockWriteRefused, hoffer]
  | loadCommand | unloadCommand | startUpReadsQualify | memoryCycleCompletion | commitCompletion | scanEnd | faultRecordEnd
  | writeBackEnd | shadowReadEnd | loadSuccess | loadFailure | unloadEnd =>
    exact congrArg _ (State.completeIf_of_not_running hr _)
  | resetNFalling n => exact congrArg _ (State.resetLow_of_unpowered hpowered (hc n rfl) hcount)
  | shortResetPulseEnd low => simp [exec, execShortResetPulseEnd, hr]
  | resetNRelease low => simp [exec, execResetNRelease, State.takeDueReset_of_not_running hr, hpowered]
  | pfailNFalling => simp [exec, execPfailNFalling, hpowered]
  | holdTimerExpiry r => simp [exec, execHoldTimerExpiry, hhold]
  | deadlineExpiry r => exact exec_deadlineExpiry_of_not_due (hdeadline r)
  | waitLimitExpiry p => exact exec_waitLimitExpiry_of_not_due (hwait p)
  | holdoffExpiry => exact exec_holdoffExpiry_of_not_due hholdoff
  | arbiterGrant => simp [exec, execArbiterGrant, hr]
  | commitStart => exact exec_commitStart_of_none (.inl hr)
  | scanStart => exact exec_scanStart_of_not_starting (by simp [State.scanStarts, hr])
  | drainEnd => simp [exec, execDrainEnd, hr]
  | lossOfSupply => simp [exec, execLossOfSupply, hpowered]

end

/-- Settles O60: the state is `unpowered` with the memory that is left, and no command takes a part without its supply. -/
theorem lossOfSupplyKeepsMemoryAlone : Obligations.LossOfSupplyKeepsMemoryAlone := by
  intro s hpowered
  obtain ⟨mem, n, hlost, hmem⟩ := s.loseSupply_cases
  refine ⟨mem, n, ?_, hmem, fun c hc => exec_of_unpowered rfl (by decide : 0 < 160) hc⟩
  rw [exec_lossOfSupply_of_powered hpowered, hlost]
  rfl

end Sys2Proof.Machine
end

section
/-! The words of memory: a command stores the write that the memory port carries, or leaves memory as it is (O5, O12). -/

namespace Sys2Proof.Machine

/-- Memory is as it was, or the write that the memory port carried is stored (R176). -/
def State.StoresCarried (s t : State) : Prop :=
  t.mem = s.mem ∨ ∃ c, s.cycle = some c ∧ c.dir = .write ∧ t.mem = memWrite s.mem c.addr c.data

theorem State.StoresCarried.refl (s : State) : s.StoresCarried s := .inl rfl

/-- An operation that is made on a condition. -/
theorem State.StoresCarried.ite {s t : State} {c : Prop} [Decidable c] (h : s.StoresCarried t) :
    s.StoresCarried (if c then t else s) := by
  split
  · exact h
  · exact .refl s

/-- What follows leaves memory as it is. -/
theorem State.StoresCarried.then_kept {s t u : State} (h : s.StoresCarried t) (hmem : u.mem = t.mem) :
    s.StoresCarried u := by
  unfold State.StoresCarried
  rw [hmem]
  exact h

/-- What came before left memory and the cycle as they were. -/
theorem State.StoresCarried.after_kept {s t u : State} (h : t.StoresCarried u) (hmem : t.mem = s.mem)
    (hcycle : t.cycle = s.cycle) : s.StoresCarried u := by
  unfold State.StoresCarried
  rw [← hmem, ← hcycle]
  exact h

theorem State.StoresCarried.of_memCarried {s t : State} (h : t.mem = s.memCarried) : s.StoresCarried t := by
  rcases hc : s.cycle with _ | c
  · exact .inl (by rw [h, State.memCarried, hc])
  · cases hd : c.dir with
    | read => exact .inl (h.trans (State.memCarried_of_read hc hd))
    | write => exact .inr ⟨c, hc, hd, h.trans (State.memCarried_of_write hc hd)⟩

/-! ## What the moves of the part's blocks leave -/

theorem State.TakesAccess.mem_eq {s t : State} (h : s.TakesAccess t) : t.mem = s.mem := by
  obtain ⟨_, _, _, _, _, _, _, _, _, _, rfl⟩ := h
  rfl

theorem State.LoaderMoves.mem_eq {s t : State} (h : s.LoaderMoves t) : t.mem = s.mem := by
  obtain ⟨_, _, _, _, _, h⟩ := h
  exact (State.TakesAccess.mem_eq h :)

theorem State.CompletionMoves.mem_eq {s t : State} (h : s.CompletionMoves t) : t.mem = s.mem := by
  obtain ⟨_, _, h⟩ := h
  exact (State.LoaderMoves.mem_eq h :)

theorem State.arrive_mem (s : State) (p : Port) (d : Dir) (a : Addr) (v : Word) : (s.arrive p d a v).mem = s.mem := by
  obtain ⟨_, h⟩ := s.arrive_only p d a v
  exact (State.TakesAccess.mem_eq h :)

theorem State.offer_mem (s : State) (p : Port) (d : Dir) (a : Addr) (v : Word) : (s.offer p d a v).mem = s.mem := by
  obtain ⟨_, h⟩ := s.offer_only p d a v
  exact (State.TakesAccess.mem_eq h :)

theorem State.takeRecorded_mem (s : State) (p : Port) (q : Option Recorded) : (s.takeRecorded p q).mem = s.mem := by
  cases q with
  | none => rfl
  | some q => exact s.arrive_mem p q.dir q.addr q.value

/-- A fall of PFAIL_N leaves the cycle carried to its completion (R134). -/
theorem State.takeFall_memoryPort (s : State) : s.takeFall.mem = s.mem ∧ s.takeFall.cycle = s.cycle := by
  unfold State.takeFall
  split
  · exact ⟨rfl, rfl⟩
  · obtain ⟨_, _, _, _, _, _, _, _, _, _, h⟩ := s.enterPfail_only
    rw [h]
    exact ⟨rfl, rfl⟩

theorem State.takeDueFall_memoryPort (s : State) : s.takeDueFall.mem = s.mem ∧ s.takeDueFall.cycle = s.cycle := by
  unfold State.takeDueFall
  split
  · exact s.takeFall_memoryPort
  · exact ⟨rfl, rfl⟩

theorem State.endShortPulse_mem (s : State) (low : Bool) : (s.endShortPulse low).mem = s.mem := by
  unfold State.endShortPulse
  dsimp only
  split
  · exact (State.takeFall_memoryPort _).1
  · rfl

theorem State.pfailFalls_mem (s : State) : s.pfailFalls.mem = s.mem := by
  unfold State.pfailFalls
  dsimp only
  split
  · exact (State.takeFall_memoryPort _).1
  · rfl

/-- A release leaves memory as it stands (R165). -/
theorem State.release_mem (s : State) (low : Bool) : (s.release low).mem = s.mem := by
  unfold State.release
  dsimp only
  split
  · split <;> simp only [State.takeRecorded_mem] <;> rfl
  · simp only [State.takeRecorded_mem]
    rfl

/-! ## The events at which the carried write is stored -/

/-- The completion of the carried cycle (R176). -/
theorem State.completeIf_storesCarried (s : State) (atHand : Bool) : s.StoresCarried (s.completeIf atHand) := by
  obtain ⟨hmem, hcycle⟩ := s.takeDueFall_memoryPort
  refine .ite (.after_kept ?_ hmem hcycle)
  unfold State.complete
  dsimp only
  split
  · rename_i c _
    exact .of_memCarried (State.CompletionMoves.mem_eq (s.takeDueFall.completeCycle_only c) :)
  · exact .refl _

/-- A reset that takes effect finishes the carried cycle (R82, R134, R178, log 11). -/
theorem State.resetLow_storesCarried (s : State) (n : Nat) : s.StoresCarried (s.resetLow n) := by
  obtain ⟨hmem, hcycle⟩ := s.takeDueFall_memoryPort
  unfold State.resetLow
  dsimp only
  split
  · exact .refl s
  · split
    · have reset : s.takeDueFall.StoresCarried s.takeDueFall.resetTakes := .of_memCarried rfl
      exact reset.after_kept hmem hcycle
    · exact .ite (.inl hmem)

/-- The supply fails with the carried write made or not (R164, log 5). -/
theorem State.loseSupply_storesCarried (s : State) : s.StoresCarried s.loseSupply := by
  obtain ⟨mem, n, h, hmem⟩ := s.loseSupply_cases
  rw [h]
  exact hmem

/-! ## Every command and every step -/

theorem exec_storesCarried (c : Instr) (s : State) : ∃ t, exec c s = .next t ∧ s.StoresCarried t := by
  cases c with
  | accessArrival p oe we a v =>
    refine ⟨_, rfl, ?_⟩
    split
    · exact .inl (s.offer_mem _ _ _ _)
    · split
      · exact .inl (s.offer_mem _ _ _ _)
      · exact .ite (.inl (s.liftStrobes_mem p))
  | alertMaskWrite v | acknowledge v | alertHoldoffWrite v | faultConsumerWrite v | timeLowRead p =>
    exact ⟨_, rfl, .inl (s.offer_mem _ _ _ _)⟩
  | statusBlockWriteRefused p w v =>
    refine ⟨_, rfl, ?_⟩
    split
    · exact .refl s
    · exact .inl (s.offer_mem _ _ _ _)
  | loadCommand | unloadCommand | startUpReadsQualify | memoryCycleCompletion | commitCompletion | scanEnd | faultRecordEnd
  | writeBackEnd | shadowReadEnd | loadSuccess | loadFailure | unloadEnd =>
    exact ⟨_, rfl, s.completeIf_storesCarried _⟩
  | resetNFalling n => exact ⟨_, rfl, s.resetLow_storesCarried n⟩
  | shortResetPulseEnd low => exact ⟨_, rfl, .ite (.inl (s.endShortPulse_mem low))⟩
  | resetNRelease low =>
    have due : s.StoresCarried s.takeDueReset := .ite (s.resetLow_storesCarried _)
    refine ⟨_, rfl, due.then_kept ?_⟩
    split
    · exact State.release_mem _ low
    · rfl
  | pfailNFalling => exact ⟨_, rfl, .ite (.inl s.pfailFalls_mem)⟩
  | holdTimerExpiry r =>
    obtain ⟨_, _, _, h⟩ := s.expireHold_only r
    exact ⟨_, rfl, .ite (.inl (by rw [h]))⟩
  | deadlineExpiry r =>
    obtain ⟨_, _, _, _, h⟩ := s.expireDeadline_only r
    exact ⟨_, rfl, .ite (.inl (by rw [h]))⟩
  | waitLimitExpiry p =>
    refine ⟨_, rfl, .ite ?_⟩
    split
    · split
      · rename_i a _ _ c _
        obtain ⟨_, _, _, _, _, h⟩ := s.expireWait_only p a c
        exact .inl (by rw [h])
      · exact .refl s
    · exact .refl s
  | holdoffExpiry => exact ⟨_, rfl, .ite (.inl rfl)⟩
  | arbiterGrant =>
    obtain ⟨_, _, _, _, h⟩ := s.grant_only
    exact ⟨_, rfl, .ite (.inl (by rw [h]))⟩
  | commitStart =>
    obtain ⟨_, _, _, _, _, _, _, _, _, _, h⟩ := s.startSelected_only
    exact ⟨_, rfl, .ite (.inl (by rw [h]))⟩
  | scanStart =>
    obtain ⟨_, _, h⟩ := s.beginScan_only
    exact ⟨_, rfl, .ite (.inl (by rw [h]))⟩
  | drainEnd => exact ⟨_, rfl, .ite (.inl (State.LoaderMoves.mem_eq s.endDrain_moves))⟩
  | lossOfSupply => exact ⟨_, rfl, .ite s.loseSupply_storesCarried⟩

theorem storesCarried_of_exec {c : Instr} {s t : State} (h : exec c s = .next t) : s.StoresCarried t := by
  obtain ⟨u, hu, hstores⟩ := exec_storesCarried c s
  obtain rfl : u = t := Host.Outcome.next.inj (hu.symm.trans h)
  exact hstores

/-- A step takes a command in a state that differs in the queue and the index of free values alone, or is a tick. -/
theorem step_takes (s : State) :
    step s = .next s.tick ∨ ∃ c queue n, step s = exec c { s with pending := queue, freeIndex := n } := by
  cases hq : s.pending with
  | cons c rest => exact .inr ⟨c, rest, s.freeIndex, by rw [step, hq]⟩
  | nil =>
    match hd : s.dueEvents with
    | [] => exact .inl (step_of_nothing_due hq hd)
    | [c] => exact .inr ⟨c, s.pending, s.freeIndex, step_of_one_due hq hd⟩
    | _ :: _ :: _ =>
      obtain ⟨c, -, h⟩ := step_of_several_due hq (by simp [hd])
      exact .inr ⟨c, s.pending, s.freeIndex + 1, h⟩

theorem storesCarried_of_step {s t : State} (h : step s = .next t) : s.StoresCarried t := by
  obtain htick | ⟨c, queue, n, htaken⟩ := step_takes s
  · obtain rfl : s.tick = t := Host.Outcome.next.inj (htick.symm.trans h)
    exact .ite (.inl rfl)
  · exact (storesCarried_of_exec (htaken.symm.trans h)).after_kept rfl rfl

/-- Settles O5: a step stores the carried write or nothing, and a write keeps the canonical form. -/
theorem stepKeepsMemoryCanonical : Obligations.StepKeepsMemoryCanonical := by
  intro s t hwf hstep
  unfold State.memCanonical at hwf ⊢
  obtain hmem | ⟨c, -, -, hmem⟩ := storesCarried_of_step hstep
  · rwa [hmem]
  · rw [hmem]
    exact memWrite_wf c.addr c.data hwf

/-- Settles O12: a command stores the carried write or nothing, and a write changes the word at its address alone. -/
theorem memoryChangesOnlyByTheCarriedWrite : Obligations.MemoryChangesOnlyByTheCarriedWrite := by
  intro c s t a hexec hchanged
  obtain hmem | ⟨cy, hcy, hdir, hmem⟩ := storesCarried_of_exec hexec
  · exact absurd (by rw [hmem]) hchanged
  · rw [hmem, memRead_memWrite] at hchanged ⊢
    have haddr : cy.addr = a := by
      by_contra hne
      exact hchanged (if_neg hne)
    exact ⟨cy, hcy, hdir, haddr, if_pos haddr⟩

end Sys2Proof.Machine
end

section
/-! The strobes of a port (O14). -/

namespace Sys2Proof.Machine

/-- ACCESS_ARRIVAL with a strobe low offers an access in the direction that WE_N gives. -/
theorem exec_accessArrival_of_asserted {oe we : Bool} (strobe : (oe || we) = true) (p : Port) (a : Addr) (v : Word)
    (s : State) : exec (.accessArrival p oe we a v) s = .next (s.offer p (dirOf we) a v) := by
  cases we with
  | true => rfl
  | false =>
    obtain rfl : oe = true := by simpa using strobe
    rfl

section
variable {s : State} {p : Port}

/-- At strobes that are held low no access arrives (R166). -/
theorem State.offer_of_held (h : (s.port p).strobes = true) (d : Dir) (a : Addr) (v : Word) : s.offer p d a v = s :=
  if_pos (.inr h)

/-- At strobes that assert while an access is in flight no access arrives (R166). -/
theorem State.offer_of_inFlight (hr : s.running = true) (hs : (s.port p).strobes = false)
    (ha : (s.port p).access.isSome = true) (d : Dir) (a : Addr) (v : Word) : s.offer p d a v = s.strobe p := by
  obtain ⟨x, hx⟩ := Option.isSome_iff_exists.1 ha
  simp only [State.running, Bool.and_eq_true, Bool.not_eq_true'] at hr
  simp [State.offer, hr, hs, hx]

/-- While RESET_N is low an access offered is recorded (R173). -/
theorem State.offer_of_reset (hpowered : s.pins.powered = true) (ht : s.pins.resetTaken = true)
    (hs : (s.port p).strobes = false) (d : Dir) (a : Addr) (v : Word) : s.offer p d a v = (s.strobe p).record p d a v := by
  simp [State.offer, hpowered, ht, hs]

end

/-- The first access is recorded, and no later one (R173). -/
theorem State.record_eq (s : State) (p : Port) (d : Dir) (a : Addr) (v : Word) :
    s.record p d a v =
      if (s.port p).recorded.isSome then s
      else s.setPort p { s.port p with recorded := some { dir := d, addr := a, value := v } } := by
  unfold State.record
  cases (s.port p).recorded <;> rfl

/-- The strobes of `p` assert, and its record changes. -/
theorem State.strobe_setPort (s : State) (p : Port) (r : PortRec) : (s.strobe p).setPort p r = s.setPort p r :=
  s.setPort_setPort p _ r

/-- Settles O14: by the lines, the level of the strobes, and what the port holds. -/
theorem portsTakeOneAccessAtATime : Obligations.PortsTakeOneAccessAtATime := by
  intro s p oe we addr v asserted
  refine ⟨fun hoe hwe hpowered => ?_, fun hpowered => ?_, fun strobe hs => ?_, fun hr strobe hs ha => ?_,
    fun hpowered ht strobe hs => ?_⟩
  · subst hoe hwe
    exact congrArg _ (if_pos hpowered)
  · simp [exec, execAccessArrival, State.offer_of_unpowered hpowered, hpowered]
  · rw [exec_accessArrival_of_asserted strobe, State.offer_of_held hs]
  · rw [exec_accessArrival_of_asserted strobe, State.offer_of_inFlight hr hs ha]
    rfl
  · rw [exec_accessArrival_of_asserted strobe, State.offer_of_reset hpowered ht hs, State.record_eq,
      State.port_strobe_self, State.strobe_setPort, apply_ite Host.Outcome.next]
    rfl

end Sys2Proof.Machine
end

section
/-! The accesses that wait for their grant (O17). -/

namespace Sys2Proof.Machine

/-- A Control Area access that the protection lets through is passed to memory (R137, R138). -/
theorem State.controlAccess_of_permitted {s : State} {p : Port} {a : Access}
    (h : s.part = .bypass ∨ (s.part = .active ∨ s.part = .draining) ∧ protectedWrite p a.dir a.addr = false) :
    s.controlAccess p a = s.passToMemory p := by
  unfold State.controlAccess
  obtain hp | ⟨hp | hp, hpermitted⟩ := h
  · simp only [hp]
  · simp [hp, hpermitted]
  · simp [hp, hpermitted]

/-- Below the Control Area an access to no region's word is passed to memory (R10, R168). -/
theorem State.lowAccess_of_plain {s : State} {p : Port} {a : Access}
    (h : s.part = .bypass ∨ (s.part = .active ∨ s.part = .draining) ∧ s.regionAt a.addr = none) :
    s.lowAccess p a = s.passToMemory p := by
  unfold State.lowAccess
  obtain hp | ⟨hp | hp, hplain⟩ := h
  · simp only [hp]
  · simp only [hp, hplain]
  · simp [hp, hplain]

/-- Reads, writes above the Fault Log, and port A's writes to the words of the table are not refused (R138). -/
theorem protectedWrite_eq_false {p : Port} {we : Bool} {a : Addr}
    (h : we = false ∨ 0x3F710 ≤ a.toNat ∨ a.toNat < 0x3F610 ∧ p = .a) : protectedWrite p (dirOf we) a = false := by
  rw [Bool.eq_false_iff, ne_eq, protectedWrite_iff, dirOf_eq_write_iff]
  rintro ⟨hwe, ⟨hlow, hhigh⟩ | ⟨-, hlow, hport⟩⟩
  · obtain h | h | ⟨h, -⟩ := h
    · simp [hwe] at h
    · omega
    · omega
  · obtain h | h | ⟨-, h⟩ := h
    · simp [hwe] at h
    · omega
    · simp [hport] at h

/-- Settles O17: by whether the address lies in the Control Area, the access is passed to memory. -/
theorem permittedAccessesClaimTheMemoryPort : Obligations.PermittedAccessesClaimTheMemoryPort := by
  intro s p oe we addr v hready strobe hstatus hcases
  rw [exec_accessArrival_of_ready hready strobe, ← State.register_hold]
  generalize ha : s.newAccess (dirOf we) addr v = a
  generalize ht : (s.strobe p).register p a = t
  have hpart : t.part = s.part := by simp [← ht]
  have hplain : t.regionAt addr = s.regionAt addr := State.regionAt_of_live (by simp [← ht]) addr
  have hdir : a.dir = dirOf we := by simp [← ha]
  obtain rfl : a.addr = addr := by simp [← ha]
  have hpfail : t.part ≠ .pfail := by
    rw [hpart]
    obtain h | ⟨h | h, -⟩ | ⟨h | h, -⟩ := hcases <;> simp [h]
  refine congrArg Host.Outcome.next ?_
  by_cases hcontrol : 0x3F000 ≤ a.addr.toNat
  · rw [State.dispatch_of_control hpfail hcontrol hstatus]
    refine State.controlAccess_of_permitted ?_
    rw [hpart, hdir]
    obtain h | ⟨-, hlow, -⟩ | ⟨h, -, hpermitted⟩ := hcases
    · exact .inl h
    · omega
    · exact .inr ⟨h, protectedWrite_eq_false hpermitted⟩
  · rw [State.dispatch_of_low hpfail (by omega)]
    refine State.lowAccess_of_plain ?_
    rw [hpart, hplain]
    obtain h | ⟨h, -, hnone⟩ | ⟨-, hhigh, -⟩ := hcases
    · exact .inl h
    · exact .inr ⟨h, hnone⟩
    · omega

end Sys2Proof.Machine
end

section
/-! The grant of the memory port (O37). -/

namespace Sys2Proof.Machine

/-- The state in which the memory port carries the cycle of a claimant, with the pointer moved on (R174). -/
def State.withGrant (s : State) (c : Cycle) (after : Claimant) : State :=
  ({ s with cycle := some c, pointer := after } : State).markGranted c.req

/-- Of the record of a granted port the access alone changes: it is GRANTED and its timer stops (R169, R171). -/
theorem State.withGrant_eq (s : State) (c : Cycle) (after : Claimant) :
    s.withGrant c after =
      let t : State := { s with cycle := some c, pointer := after }
      match c.req with
      | .port q =>
        t.setPort q { s.port q with access := (s.port q).access.map fun a => { a with phase := .granted, timer := none } }
      | .commit | .loader | .writer | .diag => t := by
  unfold State.withGrant State.markGranted
  dsimp only
  cases c.req with
  | port q => cases q <;> rfl
  | commit | loader | writer | diag => rfl

section
variable {s : State}

/-- While a cycle is carried there is no grant to take (log 1). -/
theorem State.grant_of_carried (h : s.cycle.isSome = true) : s.grant = s := by
  obtain ⟨c, hc⟩ := Option.isSome_iff_exists.1 h
  simp only [State.grant, hc]

theorem exec_arbiterGrant_of_running (hr : s.running = true) : exec .arbiterGrant s = .next s.grant := by
  simp [exec, execArbiterGrant, hr]

/-- The grant goes to the first claim in rotation from the pointer, which moves to the claimant after it (R174). -/
theorem exec_arbiterGrant_of_idle (hr : s.running = true) (h : s.cycle = none) :
    exec .arbiterGrant s =
      match s.claim s.pointer, s.claim s.pointer.next, s.claim s.pointer.next.next with
      | some c, _, _ => .next (s.withGrant c s.pointer.next)
      | none, some c, _ => .next (s.withGrant c s.pointer.next.next)
      | none, none, some c => .next (s.withGrant c s.pointer.next.next.next)
      | none, none, none => .next s := by
  rw [exec_arbiterGrant_of_running hr, State.grant, State.chosen, h]
  cases s.claim s.pointer with
  | some c => rfl
  | none =>
    cases s.claim s.pointer.next with
    | some c => rfl
    | none => cases s.claim s.pointer.next.next <;> rfl

end

/-- Each place of the pointer gives the rotation A, B, Internal, A from it. -/
theorem rotation_of_mem {pointer first second third : Claimant}
    (h : (pointer, first, second, third) ∈
      [(Claimant.a, Claimant.a, Claimant.b, Claimant.internal), (.b, .b, .internal, .a), (.internal, .internal, .a, .b)]) :
    first = pointer ∧ second = first.next ∧ third = second.next ∧ third.next = first := by
  simp only [List.mem_cons, Prod.mk.injEq, List.not_mem_nil, or_false] at h
  obtain ⟨rfl, rfl, rfl, rfl⟩ | ⟨rfl, rfl, rfl, rfl⟩ | ⟨rfl, rfl, rfl, rfl⟩ := h <;> decide

/-- Settles O37: the grant is that of `exec_arbiterGrant_of_idle`, in the rotation from the pointer. -/
theorem grantGoesToTheFirstClaimantInRotation : Obligations.GrantGoesToTheFirstClaimantInRotation := by
  intro s first second third hr hmem granted
  refine ⟨fun hcarried => by rw [exec_arbiterGrant_of_running hr, State.grant_of_carried hcarried], fun hidle => ?_⟩
  have hgranted (c : Cycle) (after : Claimant) : granted c after = .next (s.withGrant c after) :=
    congrArg Host.Outcome.next (s.withGrant_eq c after).symm
  obtain ⟨rfl, rfl, rfl, hround⟩ := rotation_of_mem hmem
  have hexec := exec_arbiterGrant_of_idle hr hidle
  rw [hround] at hexec
  simp only [hgranted]
  exact hexec

end Sys2Proof.Machine
end

section
/-! The step on a queue with commands in it (O1). -/

namespace Sys2Proof.Machine

/-- Settles O1: of the step's two cases, a queue with a front is the first; what is due plays no part in it (log 22). -/
theorem stepTakesFrontCommand : Obligations.StepTakesFrontCommand := by
  intro c rest s hqueue
  rw [step, hqueue]

end Sys2Proof.Machine
end
